-- ==== Sys2Proof/Word.lean ====
section
/-! DEFINITION. The words of the block (spec/00_scope.md R13, R14): every register and every data port is 64 bits
wide, a byte (lane) is 8 bits, and a command word is 11 bits. All are unsigned (R14), and the width invariant of
spec/10_state.md R22 holds by these types. -/

namespace Sys2Proof

/-- A 64-bit word (R13 `W = 64`, R20, R22). -/
abbrev Word := BitVec 64

/-- One byte, also called a lane of a word (R13 `BYTE = 8`, R14). -/
abbrev Byte := BitVec 8

/-- The command word on the port `cmd` (R29, R60): bits 10 to 7 the opcode, bits 6 to 0 the count. -/
abbrev CmdWord := BitVec 11

end Sys2Proof
end

