-- ==== Sys2Proof/Syntax.lean ====
section
/-! DEFINITION. The twelve commands of spec/30_encoding.md R62, one constructor per row of spec/opcode_table.json.
Every command carries the count field of its command word (R63, "the command of rule R62 with that op, carrying
cnt"), although only SHL and SHR read it (R61, R65). The operand words are not part of a command word (R67): they stand
on the ports `a` and `b`, which are fields of the machine's state. -/

namespace Sys2Proof

/-- A command. The argument is the count field `cmd[6:0]` as an unsigned number (R64). -/
inductive Instr where
  | shl (cnt : Nat)
  | shr (cnt : Nat)
  | xor (cnt : Nat)
  | and (cnt : Nat)
  | or (cnt : Nat)
  | not (cnt : Nat)
  | addb (cnt : Nat)
  | mulb (cnt : Nat)
  | clone (cnt : Nat)
  | seed (cnt : Nat)
  | next (cnt : Nat)
  | cvt (cnt : Nat)
  deriving DecidableEq, Repr

/-- The count field a command carries (R60, R64). -/
def Instr.count : Instr → Nat
  | .shl c => c
  | .shr c => c
  | .xor c => c
  | .and c => c
  | .or c => c
  | .not c => c
  | .addb c => c
  | .mulb c => c
  | .clone c => c
  | .seed c => c
  | .next c => c
  | .cvt c => c

end Sys2Proof
end

