-- ==== Sys2Proof/WellFormed.lean ====
section
/-! DEFINITION. What makes a command expressible: its count fits the 7-bit field of the command word
(spec/30_encoding.md R60, R64). Whether the count is a LEGAL shift count is no part of this: SHL and SHR check it when
they execute (R63, spec/40_shifter.md R80). -/

namespace Sys2Proof

/-- The count fits the field `cmd[6:0]`: 0 to 127 (R64, "A negative count, a missing count and a count above 127 cannot be
written in the field"). -/
abbrev Instr.WellFormed (i : Instr) : Prop := i.count < 128

end Sys2Proof
end

