-- ==== Sys2Proof/Decode.lean ====
section
/-! DEFINITION. The decoder and the encoder of spec/30_encoding.md R60 to R63: `cmd = op * 128 + cnt`, with the opcode
in bits 10 to 7 and the count in bits 6 to 0. Decoding is total; opcodes 12 to 15 are reserved (R68) and are rejected by
name here, and the step then takes the fault RESERVED_OPCODE (spec/60_exceptions.md R167). -/

namespace Sys2Proof

/-- Why a command word stands for no command. -/
inductive DecodeError where
  /-- Opcode 12, 13, 14 or 15 (R68). -/
  | reservedOpcode (op : Nat)
  deriving DecidableEq, Repr

/-- The field `op = cmd[10:7]` (R60). -/
def opField (cmd : CmdWord) : Nat := (cmd.extractLsb' 7 4).toNat

/-- The field `cnt = cmd[6:0]` (R60, R64: unsigned, not scaled, not biased). -/
def cntField (cmd : CmdWord) : Nat := (cmd.extractLsb' 0 7).toNat

/-- R62 and R63: the command with that opcode, carrying the count, or the rejection of a reserved opcode. -/
def decode (cmd : CmdWord) : Except DecodeError Instr :=
  let cnt := cntField cmd
  match opField cmd with
  | 0 => .ok (.shl cnt)
  | 1 => .ok (.shr cnt)
  | 2 => .ok (.xor cnt)
  | 3 => .ok (.and cnt)
  | 4 => .ok (.or cnt)
  | 5 => .ok (.not cnt)
  | 6 => .ok (.addb cnt)
  | 7 => .ok (.mulb cnt)
  | 8 => .ok (.clone cnt)
  | 9 => .ok (.seed cnt)
  | 10 => .ok (.next cnt)
  | 11 => .ok (.cvt cnt)
  | op => .error (.reservedOpcode op)

/-- The opcode of a command (R62). -/
def opcode : Instr → Nat
  | .shl _ => 0
  | .shr _ => 1
  | .xor _ => 2
  | .and _ => 3
  | .or _ => 4
  | .not _ => 5
  | .addb _ => 6
  | .mulb _ => 7
  | .clone _ => 8
  | .seed _ => 9
  | .next _ => 10
  | .cvt _ => 11

/-- The command word of a command: the opcode above the count (R60). -/
def encode (i : Instr) : CmdWord := BitVec.ofNat 4 (opcode i) ++ BitVec.ofNat 7 i.count

/-- The canonical form of a command, the one an assembler emits: count 0 where the count is not read (R65). -/
def canonical : Instr → Instr
  | .shl c => .shl c
  | .shr c => .shr c
  | .xor _ => .xor 0
  | .and _ => .and 0
  | .or _ => .or 0
  | .not _ => .not 0
  | .addb _ => .addb 0
  | .mulb _ => .mulb 0
  | .clone _ => .clone 0
  | .seed _ => .seed 0
  | .next _ => .next 0
  | .cvt _ => .cvt 0

/-- The command read from a word numbered as spec/opcode_table.json numbers it: bit 0 the least significant bit of
`cmd`. A command word has 11 bits and one length (R60, R69), so the number of bits the table gives the row adds nothing,
and a number that does not fit 11 bits is no command word (log 13). -/
def decodeTableWord (_nbits w : Nat) : Option Instr :=
  if w < 2 ^ 11 then
    match decode (BitVec.ofNat 11 w) with
    | .ok i => some i
    | .error _ => none
  else none

end Sys2Proof
end

