-- ==== Sys2Proof/Machine/Constants.lean ====
section
/-! DEFINITION. The named parameters of spec/00_scope.md R13 that have a value, and the two hardwired constants of
spec/10_state.md R23. They are the same in every copy of the block and no command and no reset writes them. -/

namespace Sys2Proof.Machine

/-- `MANT_MASK`: the low 52 bits (R13, R23). -/
def mantMask : Word := 0x000FFFFFFFFFFFFF#64

/-- `EXP_BITS`: the pattern of the double 1.0 (R13, R23, R142; the literal is the spec's general knowledge G2, log 11). -/
def expBits : Word := 0x3FF0000000000000#64

/-- `SH_A`: the left shift of step 3 of NEXT (R13, R133). -/
def shA : Nat := 23

/-- `SH_B`: the right shift of step 4 of NEXT (R13, R133). -/
def shB : Nat := 17

/-- `SH_C`: the right shift of step 5 of NEXT (R13, R133). -/
def shC : Nat := 26

/-- `NB`, bytes in a word (R13); also the greatest byte-shift component of a legal count (R80). -/
def wordBytes : Nat := 8

end Sys2Proof.Machine
end

