-- ==== Sys2Proof/Config.lean ====
section
/-! DEFINITION. What the spec leaves open and the model leaves free. Each is an opaque constant: Lean knows no value of
it, so a theorem about the machine holds whatever it is. The spec's NAMED parameters with a value (R13) are not here but
in Sys2Proof/Machine/Constants.lean. `LAT` is read by no rule and the model has no time (log 10); `SEED_ORDER` is an
argument of the host-side function `seedFromClock` (log 16). -/

namespace Sys2Proof

/-- FREE VALUE, DESIGN CHOICE (log 3): what `state0` holds after the `n`-th reset. spec/10_state.md R33 and
spec/70_reset_and_hazards.md R190 say "unspecified"; spec/93_implementation_defined.md U1 says "never as zero". -/
opaque Config.resetState0 : Nat → Word

/-- FREE VALUE, DESIGN CHOICE (log 3): what `state1` holds after the `n`-th reset (R33, R190, U1). -/
opaque Config.resetState1 : Nat → Word

/-- FREE VALUE, DESIGN CHOICE (log 14): whether the host's parser of hexadecimal strings accepts the digits `a` to `f`
in lower case. spec/20_memory.md R44: "not said in D00" (N9). No command depends on it. -/
opaque Config.lowerCaseHex : Bool

end Sys2Proof
end

