-- ==== Sys2Proof/Machine/State.lean ====
section
/-! DEFINITION. The state of the block. spec/00_scope.md R6: "the whole architectural state is `state0` (64 bits),
`state1` (64 bits), the flag `seeded`, the flag `fault` and the 3-bit field `fcause`". Beside these five stand the ports
a command reads and writes (spec/10_state.md R29, R30) and two fields of the model's own, `pending` and `epoch`
(INVENTORY.md, State). -/

namespace Sys2Proof.Machine

open Sys2Proof

/-- What the host does to the block in one step (R201): it asserts `rst`, or it presents a command, which is the tuple
(`cmd`, `a`, `b`) (R29). -/
inductive Request where
  | reset
  | command (cmd : CmdWord) (a b : Word)
  deriving DecidableEq, Repr

/-- The block between two commands. -/
structure State where
  /-- State word 0 (R20). -/
  state0 : Word
  /-- State word 1 (R20). -/
  state1 : Word
  /-- Set by a SEED that succeeds, cleared by reset only (R24). -/
  seeded : Bool
  /-- Set by the first contract violation, cleared by reset only (R25). -/
  fault : Bool
  /-- The code of that violation, 0 while `fault` is clear (R25, R160). -/
  fcause : BitVec 3
  /-- The `result` port as the outcome of the last command or reset: a word, or `none`, the spec's "no value" (R30,
  R32; log 5). No command reads it. -/
  result : Option Word
  /-- The first operand port (R29). -/
  a : Word
  /-- The second operand port (R29). -/
  b : Word
  /-- MODEL'S OWN, DESIGN CHOICE (log 1): what the host presents next, first entry first. The ports `rst` and `cmd` of
  R29 are its head. -/
  pending : List Request
  /-- MODEL'S OWN, DESIGN CHOICE (log 4): how many resets were taken, the index of the free values of `state0` and
  `state1`. -/
  epoch : Nat
  deriving DecidableEq, Repr

/-- Why the model's step would stop with a fault. It has NO constructor: every contract violation of the spec is a sticky
flag in the state, after which the block goes on (spec/60_exceptions.md R165, R166; log 6), so nothing stops the step.
Safe: no behaviour is cut off. -/
inductive Fault where
  deriving DecidableEq, Repr

/-- Why the model would give a command no meaning. -/
inductive Refusal where
  /-- Raised by an arm of `exec` whose command has no meaning yet, and by nothing else. Safe: it stops the step. No arm
  raises it now. -/
  | notModelled (mnemonic : String)
  deriving DecidableEq, Repr

/-- The machine right after reset (R33, R190): `seeded`, `fault` and `fcause` 0, no value on `result`, the state words
unspecified (free values, log 3), and no command presented (R191). -/
def State.reset : State where
  state0 := Config.resetState0 0
  state1 := Config.resetState1 0
  seeded := false
  fault := false
  fcause := 0#3
  result := none
  a := 0#64
  b := 0#64
  pending := []
  epoch := 0

end Sys2Proof.Machine
end

