-- ==== Sys2Proof/Machine/Flags.lean ====
section
/-! DEFINITION. The flags of spec/10_state.md R24, R25, R31 and the fault causes of spec/60_exceptions.md R160. There are
no condition codes (R27). -/

namespace Sys2Proof.Machine

open Sys2Proof

/-- The causes of R160 that some command raises. Code 0 is NONE (no fault); codes 6 and 7 are never recorded (U9). -/
inductive Cause where
  | shiftCountZero
  | shiftCountTooWide
  | reservedOpcode
  | notSeeded
  | reseed
  deriving DecidableEq, Repr

/-- The 3-bit code `fcause` records (R160). -/
def Cause.code : Cause → BitVec 3
  | .shiftCountZero => 1#3
  | .shiftCountTooWide => 2#3
  | .reservedOpcode => 3#3
  | .notSeeded => 4#3
  | .reseed => 5#3

/-- `check_count` of spec/40_shifter.md R80: what is wrong with a shift count. The byte-shift component `cnt[6:3]` is
`cnt / 8`. Legal counts are 1 to 71. -/
def checkCount (cnt : Nat) : Option Cause :=
  if cnt = 0 then some .shiftCountZero
  else if wordBytes < cnt / 8 then some .shiftCountTooWide
  else none

/-- The status word of R31: `{fcause[2:0], fault, seeded}`, bit 0 `seeded`. -/
def State.status (s : State) : BitVec 5 :=
  s.fcause ++ BitVec.ofBool s.fault ++ BitVec.ofBool s.seeded

end Sys2Proof.Machine
end

