-- ==== Sys2Proof/Machine/Ops.lean ====
section
/-! DEFINITION. The named operations on the state, each written once: returning a word, returning no value, taking a fault
(the one way a contract violation is taken, spec/60_exceptions.md R165), loading and advancing the state words,
presenting a command's operands, and reset. There is no return from a fault (R171): reset is the only way out, so
`State.applyReset` stands where another machine has its return from exception. The block has no memory (R47) and hence
no operation over one. -/

namespace Sys2Proof.Machine

open Sys2Proof

/-- `result <- v` (R15): the command returns the word `v`. -/
def State.returnWord (s : State) (v : Word) : State := { s with result := some v }

/-- `result <- none` (R15, R32): the command returns no value. -/
def State.noValue (s : State) : State := { s with result := none }

/-- `raise Fault(c)` (R15, R165): `fault` and `fcause` are set, nothing else changes, and no value is returned. -/
def State.raiseFault (s : State) (c : Cause) : State :=
  { s with fault := true, fcause := c.code, result := none }

/-- The writes of SEED (R121): both state words and the flag `seeded`; no value is returned. -/
def State.loadSeed (s : State) (w0 w1 : Word) : State :=
  { s with state0 := w0, state1 := w1, seeded := true, result := none }

/-- The writes of NEXT (R125): both state words. -/
def State.writeWords (s : State) (w0 w1 : Word) : State := { s with state0 := w0, state1 := w1 }

/-- The host puts a command's operands on the ports (R29); `rest` is what it presents after it. -/
def State.present (s : State) (a b : Word) (rest : List Request) : State :=
  { s with a := a, b := b, pending := rest }

/-- Reset (R190): the flags and the cause are cleared, the state words become unspecified (fresh free values, log 3 and 4),
and there is no value on `result`. What the host presents on the operand ports, or presents later, is not the block's to
clear (log 9). -/
def State.applyReset (s : State) : State :=
  { s with
    state0 := Config.resetState0 (s.epoch + 1)
    state1 := Config.resetState1 (s.epoch + 1)
    seeded := false
    fault := false
    fcause := 0#3
    result := none
    epoch := s.epoch + 1 }

/-- How every command starts (R166, R170): while `fault = 1` nothing is examined and nothing changes, and no value is
returned; otherwise the command has its effect, in one atomic step (R49). -/
def whenLive (s : State) (effect : State → State) : Host.Outcome State Fault Refusal :=
  if s.fault then .next s.noValue else .next (effect s)

/-- A command with a precondition: its check names a violation, which is taken as a fault (R165), or finds none, and then
the command has its effect. -/
def checked (violation : Option Cause) (effect : State → State) (s : State) : State :=
  match violation with
  | some c => s.raiseFault c
  | none => effect s

/-- A command word with a reserved opcode (R167, R68), in the order of checks of R170. -/
def takeReserved (s : State) : Host.Outcome State Fault Refusal :=
  whenLive s fun t => t.raiseFault .reservedOpcode

end Sys2Proof.Machine
end

