-- ==== Sys2Proof/Machine/Converter.lean ====
section
/-! DEFINITION. The unit `bit_pattern_to_ieee754_double_converter` (spec/43_converter.md): masking and exponent forcing
(R143), the exact conversion (R145), the value of a binary64 pattern as far as the block needs it (R141), and the
command CVT (R146). -/

namespace Sys2Proof.Machine

open Sys2Proof

/-- The fraction field `w[51:0]` as a number (R141, R145). -/
def fractionField (w : Word) : Nat := (w.extractLsb' 0 52).toNat

/-- The biased exponent field `w[62:52]` (R141). -/
def exponentField (w : Word) : Nat := (w.extractLsb' 52 11).toNat

/-- The sign field `w[63]` (R141). -/
def signField (w : Word) : Nat := (w.extractLsb' 63 1).toNat

/-- R143: AND with `MANT_MASK` first, then OR with `EXP_BITS` (spec/90_conflicts.md C7). -/
def raw (w : Word) : Word := (w &&& mantMask) ||| expBits

/-- R145: the binary64 pattern of `f * 2^-52` with `f = w[51:0]`, which is `f64(raw w) - 1.0` exactly. For `f = 0` it is
+0.0 (R147; log 11). `k` is the position of the highest 1 bit of `f`. -/
def cvt (w : Word) : Word :=
  let f := fractionField w
  if f = 0 then 0#64
  else
    let k := f.log2
    0#1 ++ BitVec.ofNat 11 (971 + k) ++ BitVec.ofNat 52 (f * 2 ^ (52 - k))

/-- R141: the real number a pattern encodes, for normal numbers and for +0.0. The spec gives the other patterns (other
zeros, subnormals, infinities, NaNs) no meaning here, since none occurs (R148): they are `none` (log 17). -/
def f64 (p : Word) : Option ℚ :=
  let e := exponentField p
  if 1 ≤ e ∧ e ≤ 2046 then
    some ((-1) ^ signField p * (2 : ℚ) ^ ((e : ℤ) - 1023) * (1 + (fractionField p : ℚ) / 2 ^ 52))
  else if p = 0#64 then some 0
  else none

/-- CVT (R146): `result <- cvt(a)`; every word is a legal input. -/
def execCvt (_cnt : Nat) (s : State) : Host.Outcome State Fault Refusal :=
  whenLive s fun t => t.returnWord (cvt t.a)

end Sys2Proof.Machine
end

