-- ==== Sys2Proof/Machine/Operands.lean ====
section
/-! DEFINITION. The operand forms of spec/30_encoding.md R61, and the bytes of a word (spec/00_scope.md R14,
spec/20_memory.md R40): byte 0 is the most significant. -/

namespace Sys2Proof.Machine

open Sys2Proof

/-- The four formats of R61. -/
inductive Format where
  /-- Shift: reads `cnt` and `a`. -/
  | shift
  /-- Binary: reads `a` and `b`. -/
  | binary
  /-- Unary: reads `a`. -/
  | unary
  /-- Nullary: reads no input. -/
  | nullary
  deriving DecidableEq, Repr

/-- The format of each command (R61, R62). -/
def formatOf : Instr → Format
  | .shl _ => .shift
  | .shr _ => .shift
  | .xor _ => .binary
  | .and _ => .binary
  | .or _ => .binary
  | .not _ => .unary
  | .addb _ => .binary
  | .mulb _ => .binary
  | .clone _ => .unary
  | .seed _ => .binary
  | .next _ => .nullary
  | .cvt _ => .unary

/-- Whether a format reads the count field (R61). -/
def Format.readsCnt : Format → Bool
  | .shift => true
  | .binary => false
  | .unary => false
  | .nullary => false

/-- Whether a format reads the port `a` (R61). -/
def Format.readsA : Format → Bool
  | .shift => true
  | .binary => true
  | .unary => true
  | .nullary => false

/-- Whether a format reads the port `b` (R61). -/
def Format.readsB : Format → Bool
  | .shift => false
  | .binary => true
  | .unary => false
  | .nullary => false

/-- `byte(w, i) = w[63 - 8i : 56 - 8i]` for `i` in 0..7 (R14). -/
def byte (w : Word) (i : Nat) : Byte := w.extractLsb' (56 - 8 * i) 8

/-- The word whose byte `i` is `f i`, for `i` in 0..7 (R14: `[b0, b1, ..., b7]`). -/
def ofLanes (f : Nat → Byte) : Word :=
  f 0 ++ f 1 ++ f 2 ++ f 3 ++ f 4 ++ f 5 ++ f 6 ++ f 7

/-- The eight bytes of a word, most significant first (R40). -/
def bytesOf (w : Word) : List Byte := (List.range wordBytes).map (byte w)

/-- The word of a list of bytes, most significant first; meant for eight bytes (R41). -/
def ofBytes (q : List Byte) : Word := ofLanes fun i => q.getD i 0#8

end Sys2Proof.Machine
end

