-- ==== Sys2Proof/Machine/LogicAlu.lean ====
section
/-! DEFINITION. The unit `64bit_bitwise_logic_alu` (spec/41_logic_alu.md): XOR, AND, OR, NOT, the byte-lane add and
multiply, and the copy. None reads the count, a state word or `seeded`, and none can violate a precondition (R100). -/

namespace Sys2Proof.Machine

open Sys2Proof

/-- R105: each lane added modulo 256, no carry between lanes. It is NOT 64-bit addition (spec/90_conflicts.md C8). -/
def addb (a b : Word) : Word := ofLanes fun i => byte a i + byte b i

/-- R106: each lane multiplied, the low 8 bits kept (spec/90_conflicts.md C4). It is NOT 64-bit multiplication. -/
def mulb (a b : Word) : Word := ofLanes fun i => byte a i * byte b i

/-- XOR (R101). -/
def execXor (_cnt : Nat) (s : State) : Host.Outcome State Fault Refusal :=
  whenLive s fun t => t.returnWord (t.a ^^^ t.b)

/-- AND (R102). -/
def execAnd (_cnt : Nat) (s : State) : Host.Outcome State Fault Refusal :=
  whenLive s fun t => t.returnWord (t.a &&& t.b)

/-- OR (R103). -/
def execOr (_cnt : Nat) (s : State) : Host.Outcome State Fault Refusal :=
  whenLive s fun t => t.returnWord (t.a ||| t.b)

/-- NOT (R104). -/
def execNot (_cnt : Nat) (s : State) : Host.Outcome State Fault Refusal :=
  whenLive s fun t => t.returnWord (~~~t.a)

/-- ADDB (R105). -/
def execAddb (_cnt : Nat) (s : State) : Host.Outcome State Fault Refusal :=
  whenLive s fun t => t.returnWord (addb t.a t.b)

/-- MULB (R106). -/
def execMulb (_cnt : Nat) (s : State) : Host.Outcome State Fault Refusal :=
  whenLive s fun t => t.returnWord (mulb t.a t.b)

/-- CLONE (R108): the identity. -/
def execClone (_cnt : Nat) (s : State) : Host.Outcome State Fault Refusal :=
  whenLive s fun t => t.returnWord t.a

end Sys2Proof.Machine
end

