-- ==== Sys2Proof/Machine/Shifter.lean ====
section
/-! DEFINITION. The unit `64bit_barrel_shifter` (spec/40_shifter.md): the functions `shl64` and `shr64`, the two-stage
forms D00 narrates, and the commands SHL and SHR. -/

namespace Sys2Proof.Machine

open Sys2Proof

/-- R82: logical left shift, `(w * 2^n) mod 2^64`. -/
def shl64 (w : Word) (n : Nat) : Word := w <<< n

/-- R85: logical right shift, `floor(w / 2^n)`. -/
def shr64 (w : Word) (n : Nat) : Word := w >>> n

/-- R83 stage 1: whole bytes move toward byte 0, zeros come in at byte 7. -/
def shlByteStage (k : Nat) (q : List Byte) : List Byte :=
  (List.range wordBytes).map fun i => if i + k ≤ 7 then q.getD (i + k) 0#8 else 0#8

/-- R83 stage 2, scanned from the last byte of the list to its first: the shifted bytes, and the bits that left the top of
the first byte. The carry goes toward the more significant end (spec/90_conflicts.md C1). -/
def shlBitStage (r : Nat) : List Byte → List Byte × Byte
  | [] => ([], 0#8)
  | p :: ps =>
    let rest := shlBitStage r ps
    ((p <<< r ||| rest.2) :: rest.1, p >>> (8 - r))

/-- R83: both stages; stage 2 acts only when the bit part is not 0. -/
def shlStages (w : Word) (n : Nat) : Word :=
  let p := shlByteStage (n / 8) (bytesOf w)
  ofBytes (if n % 8 = 0 then p else (shlBitStage (n % 8) p).1)

/-- R86 stage 1: whole bytes move toward byte 7, zeros come in at byte 0. -/
def shrByteStage (k : Nat) (q : List Byte) : List Byte :=
  (List.range wordBytes).map fun i => if k ≤ i then q.getD (i - k) 0#8 else 0#8

/-- R86 stage 2, scanned from the first byte to the last, with the carry from the byte before (spec/90_conflicts.md C2). -/
def shrBitStage (r : Nat) : Byte → List Byte → List Byte
  | _, [] => []
  | carry, p :: ps => (p >>> r ||| carry <<< (8 - r)) :: shrBitStage r (BitVec.ofNat 8 (p.toNat % 2 ^ r)) ps

/-- R86: both stages; stage 2 acts only when the bit part is not 0. -/
def shrStages (w : Word) (n : Nat) : Word :=
  let p := shrByteStage (n / 8) (bytesOf w)
  ofBytes (if n % 8 = 0 then p else shrBitStage (n % 8) 0#8 p)

/-- SHL (R81): `check_count(cnt)`, then `result <- shl64(a, cnt)`. -/
def execShl (cnt : Nat) (s : State) : Host.Outcome State Fault Refusal :=
  whenLive s (checked (checkCount cnt) fun t => t.returnWord (shl64 t.a cnt))

/-- SHR (R84): `check_count(cnt)`, then `result <- shr64(a, cnt)`. -/
def execShr (cnt : Nat) (s : State) : Host.Outcome State Fault Refusal :=
  whenLive s (checked (checkCount cnt) fun t => t.returnWord (shr64 t.a cnt))

end Sys2Proof.Machine
end

