-- ==== Sys2Proof/Machine/Generator.lean ====
section
/-! DEFINITION. The unit `xorshift128_plus_core` (spec/42_generator.md): the state update of NEXT in values (R125) and as
D00's eight register steps (R126), and the commands SEED and NEXT. -/

namespace Sys2Proof.Machine

open Sys2Proof

/-- R125, the state update alone: the new `state0` and the new `state1` from the old ones. The names cross as D00 has
them (R124). -/
def advance (old0 old1 : Word) : Word × Word :=
  let t1 := shl64 old0 shA ^^^ old0
  let t2 := shr64 t1 shB ^^^ t1
  let t3 := t2 ^^^ old1
  (old1, t3 ^^^ shr64 old1 shC)

/-- R125, the output: the converter applied to the byte-lane sum of the two NEW state words (R200). -/
def outputOf (new0 new1 : Word) : Word := cvt (addb new0 new1)

/-- The working registers of D00's eight steps (R126): the state words, `s0`, `s1`, the copy `c` and `tmp`. -/
structure Work where
  state0 : Word
  state1 : Word
  s0 : Word
  s1 : Word
  c : Word
  tmp : Word
  deriving DecidableEq, Repr

/-- R126 step 1: `s1 <- state0`, `s0 <- state1`. -/
def nextStep1 (w : Work) : Work := { w with s1 := w.state0, s0 := w.state1 }

/-- R126 step 2: `state0 <- s0`, while `s0` still is the old `state1` (R198). -/
def nextStep2 (w : Work) : Work := { w with state0 := w.s0 }

/-- R126 step 3: copy `s1`, shift it left by 23, XOR with the copy (R199). -/
def nextStep3 (w : Work) : Work := { w with c := w.s1, s1 := shl64 w.s1 shA ^^^ w.s1 }

/-- R126 step 4: copy `s1`, shift it right by 17, XOR with the copy (R199). -/
def nextStep4 (w : Work) : Work := { w with c := w.s1, s1 := shr64 w.s1 shB ^^^ w.s1 }

/-- R126 step 5: XOR with the unshifted `s0`, shift `s0` in place, XOR with the shifted `s0` (R198). -/
def nextStep5 (w : Work) : Work :=
  { w with s0 := shr64 w.s0 shC, s1 := (w.s1 ^^^ w.s0) ^^^ shr64 w.s0 shC }

/-- R126 step 6: `state1 <- s1`. -/
def nextStep6 (w : Work) : Work := { w with state1 := w.s1 }

/-- R126 step 7: `tmp` is the byte-lane sum of the new state words, masked and with the exponent forced (R200). -/
def nextStep7 (w : Work) : Work :=
  { w with tmp := (addb w.state0 w.state1 &&& mantMask) ||| expBits }

/-- R126 steps 1 to 7 in order. -/
def nextInSteps (w : Work) : Work :=
  nextStep7 (nextStep6 (nextStep5 (nextStep4 (nextStep3 (nextStep2 (nextStep1 w))))))

/-- SEED (R121): a second SEED without a reset is the fault RESEED (R164); otherwise `state0 <- a`, `state1 <- b`,
`seeded <- 1`, and no value is returned. -/
def execSeed (_cnt : Nat) (s : State) : Host.Outcome State Fault Refusal :=
  whenLive s fun t =>
    checked (if t.seeded then some .reseed else none) (fun u => u.loadSeed u.a u.b) t

/-- NEXT (R125): with `seeded = 0` the fault NOT_SEEDED (R163); otherwise both state words advance and the double of the
new words is returned. -/
def execNext (_cnt : Nat) (s : State) : Host.Outcome State Fault Refusal :=
  whenLive s fun t =>
    checked (if t.seeded then none else some .notSeeded)
      (fun u =>
        let new := advance u.state0 u.state1
        (u.writeWords new.1 new.2).returnWord (outputOf new.1 new.2)) t

end Sys2Proof.Machine
end

