-- ==== Sys2Proof/Machine/Dispatch.lean ====
section
/-! DEFINITION. One arm per command of spec/30_encoding.md R62; each is a direct call of that command's meaning. -/

namespace Sys2Proof.Machine

open Sys2Proof

/-- The effect of one command on the state, in which its operands already stand on the ports `a` and `b`. -/
def exec (i : Instr) (s : State) : Host.Outcome State Fault Refusal :=
  match i with
  | .shl cnt => Sys2Proof.Machine.execShl cnt s
  | .shr cnt => Sys2Proof.Machine.execShr cnt s
  | .xor cnt => Sys2Proof.Machine.execXor cnt s
  | .and cnt => Sys2Proof.Machine.execAnd cnt s
  | .or cnt => Sys2Proof.Machine.execOr cnt s
  | .not cnt => Sys2Proof.Machine.execNot cnt s
  | .addb cnt => Sys2Proof.Machine.execAddb cnt s
  | .mulb cnt => Sys2Proof.Machine.execMulb cnt s
  | .clone cnt => Sys2Proof.Machine.execClone cnt s
  | .seed cnt => Sys2Proof.Machine.execSeed cnt s
  | .next cnt => Sys2Proof.Machine.execNext cnt s
  | .cvt cnt => Sys2Proof.Machine.execCvt cnt s

end Sys2Proof.Machine
end

