-- ==== Sys2Proof/Machine/Step.lean ====
section
/-! DEFINITION. One step of the machine: the block takes what the host presents next (R5, R7, R52). There is no
instruction fetch from a memory (R54): the place a step takes its next command from is the head of `pending`. -/

namespace Sys2Proof.Machine

open Sys2Proof

/-- A command word with its operands on the ports: decoded (R63), then executed, or taken as the fault
RESERVED_OPCODE (R167). -/
def perform (cmd : CmdWord) (s : State) : Host.Outcome State Fault Refusal :=
  match decode cmd with
  | .ok i => exec i s
  | .error _ => takeReserved s

/-- One step: with nothing presented the block holds its state (R180, R191; log 12); a reset is one atomic step between
commands (R190); a command is one atomic step (R49). -/
def step (s : State) : Host.Outcome State Fault Refusal :=
  match s.pending with
  | [] => .next s
  | .reset :: rest => .next { s with pending := rest }.applyReset
  | .command cmd a b :: rest => perform cmd (s.present a b rest)

/-- `s` with the command word `w` presented next, its operands what the ports `a` and `b` hold. A number that does not fit
the 11 bits of `cmd` can not be presented and changes nothing (log 13). -/
def State.withFetchWord (s : State) (_nbits w : Nat) : State :=
  if w < 2 ^ 11 then { s with pending := .command (BitVec.ofNat 11 w) s.a s.b :: s.pending } else s

end Sys2Proof.Machine
end

