-- ==== Sys2Proof/Machine/HostWords.lean ====
section
/-! DEFINITION. How a host forms a 64-bit word (spec/20_memory.md R41 to R46) and the seed request it builds from a clock
reading (spec/42_generator.md R123). These are host conventions: no step of the block calls them, and input that forms no
word never reaches the block (spec/60_exceptions.md R168, spec/93_implementation_defined.md U13). -/

namespace Sys2Proof.Machine

open Sys2Proof

/-- R41: exactly eight bytes, first byte most significant. Another length forms no word (N11, U13). -/
def wordOfBytes (q : List Byte) : Option Word :=
  if q.length = wordBytes then some (ofBytes q) else none

/-- R45: an unsigned integer below 2^64 denotes the word equal to it. A greater one must not be presented (U13). -/
def wordOfNat (v : Nat) : Option Word := if v < 2 ^ 64 then some (BitVec.ofNat 64 v) else none

/-- R46: a word formed with no source. -/
def defaultWord : Word := 0#64

/-- R46: a word formed from another one. -/
def copyWord (w : Word) : Word := w

/-- The value of a hexadecimal digit. Whether lower-case letters are accepted is open (N9), a free value (log 14). -/
def hexVal (c : Char) : Option Nat :=
  let n := c.toNat
  if 48 ≤ n ∧ n ≤ 57 then some (n - 48)
  else if 65 ≤ n ∧ n ≤ 70 then some (n - 55)
  else if 97 ≤ n ∧ n ≤ 102 then (if Config.lowerCaseHex then some (n - 87) else none)
  else none

/-- The digits read as one base-16 number, most significant first, on top of `acc`; `none` at a character that is no
digit. -/
def hexNumber (acc : Nat) : List Char → Option Nat
  | [] => some acc
  | c :: cs =>
    match hexVal c with
    | some v => hexNumber (16 * acc + v) cs
    | none => none

/-- R44: exactly 16 hexadecimal characters, decoded big-endian; a malformed string forms no word. -/
def wordOfHex (cs : List Char) : Option Word :=
  if cs.length = 16 then (hexNumber 0 cs).map (BitVec.ofNat 64) else none

/-- One hexadecimal digit as this spec writes it, in upper case (R44). -/
def hexDigit (v : Nat) : Char := if v < 10 then Char.ofNat (48 + v) else Char.ofNat (55 + v)

/-- The sixteen digits of a word, most significant first (R14, R44). -/
def hexOf (w : Word) : List Char :=
  (List.range 16).map fun j => hexDigit (w.toNat / 16 ^ (15 - j) % 16)

/-- `SEED_ORDER` (R13, R123): which clock component the host puts on which operand port. -/
inductive SeedOrder where
  /-- Seconds-like on `a`, nanoseconds-like on `b`: the recommended order (D15). -/
  | secondsFirst
  | nanosecondsFirst
  deriving DecidableEq, Repr

/-- R123, R194: the SEED request of a host that mirrors the software, from one clock reading. No rule of the block depends
on the order (log 16). -/
def seedFromClock (order : SeedOrder) (seconds nanoseconds : Nat) : Option Request :=
  match wordOfNat seconds, wordOfNat nanoseconds with
  | some x, some y =>
    match order with
    | .secondsFirst => some (.command (encode (.seed 0)) x y)
    | .nanosecondsFirst => some (.command (encode (.seed 0)) y x)
  | some _, none => none
  | none, _ => none

end Sys2Proof.Machine
end

