-- ==== Sys2Proof/Machine/Assembly.lean ====
section
/-! DEFINITION. The assembly notation of spec/30_encoding.md R70: one line of a listing, the request it stands for, and its
text. It is the spec's notation for what a host presents, not a part of the block. -/

namespace Sys2Proof.Machine

open Sys2Proof

/-- A word operand of a listing (R70): a literal, or `$n`, the value command number `n` of the listing returned. -/
inductive Operand where
  | word (w : Word)
  | prior (n : Nat)
  deriving DecidableEq, Repr

/-- One line of a listing (R70). `reset` is the directive `RESET`, which is no command. -/
inductive Line where
  | reset
  | shl (x : Operand) (count : Nat)
  | shr (x : Operand) (count : Nat)
  | xor (x y : Operand)
  | and (x y : Operand)
  | or (x y : Operand)
  | not (x : Operand)
  | addb (x y : Operand)
  | mulb (x y : Operand)
  | clone (x : Operand)
  | seed (x y : Operand)
  | next
  | cvt (x : Operand)
  deriving DecidableEq, Repr

/-- The word an operand stands for, given what the commands before it returned, first command first. Commands are numbered
from 1 and `RESET` is not counted (log 15). -/
def Operand.value (returned : List (Option Word)) : Operand → Option Word
  | .word w => some w
  | .prior 0 => none
  | .prior (n + 1) => returned.getD n none

/-- A command word with one operand on `a`; the unread port `b` is left 0 (R66, log 15). -/
def unaryRequest (i : Instr) (returned : List (Option Word)) (x : Operand) : Option Request :=
  (x.value returned).map fun w => .command (encode i) w 0#64

/-- A command word with the first operand on `a` and the second on `b` (R70). -/
def binaryRequest (i : Instr) (returned : List (Option Word)) (x y : Operand) : Option Request :=
  match x.value returned, y.value returned with
  | some v, some w => some (.command (encode i) v w)
  | some _, none => none
  | none, _ => none

/-- A shift: the count is a decimal number 0 to 127 placed in `cnt` (R70). -/
def shiftRequest (i : Instr) (returned : List (Option Word)) (x : Operand) : Option Request :=
  if i.count < 128 then unaryRequest i returned x else none

/-- What the host presents for a line (R70). The count of a command that reads none is the canonical 0 (R65). -/
def Line.request (returned : List (Option Word)) : Line → Option Request
  | .reset => some .reset
  | .shl x n => shiftRequest (.shl n) returned x
  | .shr x n => shiftRequest (.shr n) returned x
  | .xor x y => binaryRequest (.xor 0) returned x y
  | .and x y => binaryRequest (.and 0) returned x y
  | .or x y => binaryRequest (.or 0) returned x y
  | .not x => unaryRequest (.not 0) returned x
  | .addb x y => binaryRequest (.addb 0) returned x y
  | .mulb x y => binaryRequest (.mulb 0) returned x y
  | .clone x => unaryRequest (.clone 0) returned x
  | .seed x y => binaryRequest (.seed 0) returned x y
  | .next => some (.command (encode (.next 0)) 0#64 0#64)
  | .cvt x => unaryRequest (.cvt 0) returned x

/-- The text of an operand: `0x` and sixteen digits, or `$n` (R70). -/
def Operand.text : Operand → String
  | .word w => "0x" ++ String.ofList (hexOf w)
  | .prior n => "$" ++ toString n

/-- The text of a line (R70). -/
def Line.text : Line → String
  | .reset => "RESET"
  | .shl x n => "SHL " ++ x.text ++ ", " ++ toString n
  | .shr x n => "SHR " ++ x.text ++ ", " ++ toString n
  | .xor x y => "XOR " ++ x.text ++ ", " ++ y.text
  | .and x y => "AND " ++ x.text ++ ", " ++ y.text
  | .or x y => "OR " ++ x.text ++ ", " ++ y.text
  | .not x => "NOT " ++ x.text
  | .addb x y => "ADDB " ++ x.text ++ ", " ++ y.text
  | .mulb x y => "MULB " ++ x.text ++ ", " ++ y.text
  | .clone x => "CLONE " ++ x.text
  | .seed x y => "SEED " ++ x.text ++ ", " ++ y.text
  | .next => "NEXT"
  | .cvt x => "CVT " ++ x.text

end Sys2Proof.Machine
end

