-- ==== Sys2Proof/Machine/Run.lean ====
section
/-! DEFINITION. Runs as the host sees them (spec/70_reset_and_hazards.md R202): the sequence of resets and commands that
stands in `pending`, its observable outcome, whether it has gone right, and the stream of a seed
(spec/42_generator.md R131). -/

namespace Sys2Proof.Machine

open Sys2Proof

/-- Whether a request is a command (R201: the host resets, or it presents a command). -/
def isCommand : Request → Bool
  | .reset => false
  | .command _ _ _ => true

/-- Whether a request is a NEXT (R62: opcode 10). -/
def isNext : Request → Bool
  | .reset => false
  | .command cmd _ _ => opField cmd == 10

/-- How many requests there are up to the last command, that command among them; 0 where there is no command. -/
def upToLastCommand : List Request → Nat
  | [] => 0
  | r :: rest =>
    match upToLastCommand rest with
    | 0 => if isCommand r then 1 else 0
    | n + 1 => n + 2

/-- How many requests a run takes before it is judged (R202: "after its last command"). A run without a command is judged
at its end (log 19). -/
def judgedAt (rs : List Request) : Nat :=
  match upToLastCommand rs with
  | 0 => rs.length
  | n + 1 => n + 1

/-- R202: the whole presented sequence was taken, from `s` to `t`, and `fault = 0` after its last command; a reset that
follows that command mends nothing. -/
def GoneRight (s t : State) : Prop :=
  Host.Core.run Sys2Proof.core s.pending.length s = .next t ∧
  ∃ u : State, Host.Core.run Sys2Proof.core (judgedAt s.pending) s = .next u ∧ u.fault = false

/-- R202: the `result` values of the value-returning commands among the first `k` requests, in order. A reset, a SEED, a
faulting command and a command of a faulted block return none. -/
def runResults : Nat → State → List Word
  | 0, _ => []
  | k + 1, s =>
    match step s with
    | .next t =>
      if s.pending.head?.any isCommand then t.result.toList ++ runResults k t else runResults k t
    | .fault _ => []
    | .refused _ => []

/-- What a host can observe of a run (R202); the final state words are not part of it. -/
structure RunOutcome where
  /-- What the value-returning commands returned, in order. -/
  results : List Word
  seeded : Bool
  fault : Bool
  fcause : BitVec 3
  deriving DecidableEq, Repr

/-- R202: the observable outcome of the whole presented sequence. -/
def runOutcome (s : State) : Option RunOutcome :=
  match Host.Core.run Sys2Proof.core s.pending.length s with
  | .next t => some ⟨runResults s.pending.length s, t.seeded, t.fault, t.fcause⟩
  | .fault _ => none
  | .refused _ => none

/-- What the NEXTs among the first `k` requests return, in order, `none` for one that returns no value (R131). -/
def nextResults : Nat → State → List (Option Word)
  | 0, _ => []
  | k + 1, s =>
    match step s with
    | .next t =>
      if s.pending.head?.any isNext then t.result :: nextResults k t else nextResults k t
    | .fault _ => []
    | .refused _ => []

/-- The state words after `n` NEXTs (R125, R131). -/
def wordsAfter : Nat → Word × Word → Word × Word
  | 0, p => p
  | n + 1, p => wordsAfter n (advance p.1 p.2)

/-- The result of the NEXT that follows `n` earlier ones, from the two seed words alone (R131). -/
def streamWord (w0 w1 : Word) (n : Nat) : Word :=
  let p := wordsAfter (n + 1) (w0, w1)
  outputOf p.1 p.2

end Sys2Proof.Machine
end

