-- ==== Sys2Proof/Safety.lean ====
section
/-! DEFINITION. What claims take for granted of a state: the invariant of the flags. Runs and when they have gone right
(spec/70_reset_and_hazards.md R202) stand in Sys2Proof/Machine/Run.lean. -/

namespace Sys2Proof.Machine

open Sys2Proof

/-- What the flags and the cause say of each other in every state the rules allow: the cause is 0 exactly while no fault
is recorded (R25, R160), it is never 6 or 7 (U9), a faulted block shows no value (R165, R166), NOT_SEEDED is recorded
only unseeded and RESEED only seeded (R163, R164). -/
abbrev State.Inv (s : State) : Prop :=
  (s.fault = false → s.fcause = 0#3) ∧
  (s.fault = true → s.fcause ≠ 0#3 ∧ s.fcause.toNat ≤ 5 ∧ s.result = none) ∧
  (s.fcause = 4#3 → s.seeded = false) ∧
  (s.fcause = 5#3 → s.seeded = true)

end Sys2Proof.Machine
end

