-- ==== Sys2Proof/Certificates/Slice0/Obligations.lean ====
section
/-! DEFINITION. The statements for the provers, in the order of the spec's files. `exec i s = .next { s with … }` fixes the
WHOLE next state: every field not named after `with` is unchanged, so each such statement is its command's frame as well
as its completion. The block has no memory (R47), so no frame speaks of one. -/

open Sys2Proof Sys2Proof.Machine

/-! ## Reset, the host's part and the step -/

/-- R33: what reset leaves, for the pieces of state the spec gives a reset value, with no value on `result` (R32) and
nothing presented (the model's field `pending`, log 1). Nothing is said of the state words, which are unspecified. -/
def Obligations.ResetStateHasRuleValues : Prop :=
  State.reset.seeded = false ∧ State.reset.fault = false ∧ State.reset.fcause = 0#3 ∧
    State.reset.status = 0#5 ∧ State.reset.result = none ∧ State.reset.pending = []

/-- R190: a reset request, taken from ANY state, faulted or not, clears the flags and the cause and leaves no value.
That the operand ports and the later requests stay is the model's choice (log 9). -/
def Obligations.ResetRequestClearsEveryFlag : Prop :=
  ∀ (s : State) (rest : List Request), s.pending = .reset :: rest →
    ∃ t : State, step s = .next t ∧ t.seeded = false ∧ t.fault = false ∧ t.fcause = 0#3 ∧
      t.result = none ∧ t.a = s.a ∧ t.b = s.b ∧ t.pending = rest

/-- R29, R52, R63: a step takes the command the host presents next, puts its operands on the ports and is `exec` of the
decoded command at that state. -/
def Obligations.StepRunsThePresentedCommand : Prop :=
  ∀ (s : State) (cmd : CmdWord) (a b : Word) (rest : List Request) (i : Instr),
    s.pending = .command cmd a b :: rest → decode cmd = .ok i →
      step s = exec i { s with a := a, b := b, pending := rest }

/-- R180, R191: with nothing presented the block holds its state. The model takes this as a step that changes nothing
(log 12), and `result`, which R32 says is no state, stays over it too: that is the model's choice (log 5). -/
def Obligations.IdleStepHoldsTheState : Prop :=
  ∀ s : State, s.pending = [] → step s = .next s

/-- R167, R68: a command word from 0x600 on is the fault RESERVED_OPCODE (3); nothing else changes but what the host
presents. -/
def Obligations.ReservedOpcodeFaults : Prop :=
  ∀ (s : State) (cmd : CmdWord) (a b : Word) (rest : List Request),
    s.pending = .command cmd a b :: rest → s.fault = false → 0x600 ≤ cmd.toNat →
      step s = .next { s with
        a := a, b := b, pending := rest, fault := true, fcause := 3#3, result := none }

/-- R31: the status word, bit 0 `seeded`, bit 1 `fault`, bits 4 to 2 `fcause`. -/
def Obligations.StatusWordLayout : Prop :=
  ∀ s : State, s.status.getLsbD 0 = s.seeded ∧ s.status.getLsbD 1 = s.fault ∧
    s.status.extractLsb' 2 3 = s.fcause

/-! ## Words and bytes -/

/-- R41: eight bytes form the word with those bytes, first byte most significant, and every word is formed so. -/
def Obligations.EightBytesFormAWordBigEndian : Prop :=
  (∀ q0 q1 q2 q3 q4 q5 q6 q7 : Byte, ∃ w : Word,
    wordOfBytes [q0, q1, q2, q3, q4, q5, q6, q7] = some w ∧
    bytesOf w = [q0, q1, q2, q3, q4, q5, q6, q7] ∧
    w.toNat = q0.toNat * 2 ^ 56 + q1.toNat * 2 ^ 48 + q2.toNat * 2 ^ 40 + q3.toNat * 2 ^ 32 +
      q4.toNat * 2 ^ 24 + q5.toNat * 2 ^ 16 + q6.toNat * 2 ^ 8 + q7.toNat) ∧
  ∀ w : Word, wordOfBytes (bytesOf w) = some w

/-- R44: sixteen hexadecimal digits form the word whose byte `i` is `16 val(c[2i]) + val(c[2i+1])`; the digits the spec
writes for a word form that word; a malformed string forms none. -/
def Obligations.SixteenHexDigitsFormAWord : Prop :=
  (∀ (cs : List Char) (v : Nat → Nat), cs.length = 16 →
    (∀ j, j < 16 → (cs[j]?).bind hexVal = some (v j)) →
      ∃ w : Word, wordOfHex cs = some w ∧
        ∀ i, i < 8 → (byte w i).toNat = 16 * v (2 * i) + v (2 * i + 1)) ∧
  (∀ w : Word, wordOfHex (hexOf w) = some w) ∧
  (∀ cs : List Char, cs.length ≠ 16 ∨ (∃ c ∈ cs, hexVal c = none) → wordOfHex cs = none)

/-- R45: an integer below 2^64 forms the word equal to it, whose bytes are its base-256 digits. That a greater integer
forms no word is the model's choice (log 14): the spec says only that a host must not present one. -/
def Obligations.IntegersBelowTwoTo64FormWords : Prop :=
  (∀ v : Nat, v < 2 ^ 64 → ∃ w : Word, wordOfNat v = some w ∧ w.toNat = v ∧
    ∀ i, i < 8 → (byte w i).toNat = v / 256 ^ (7 - i) % 256) ∧
  ∀ v : Nat, 2 ^ 64 ≤ v → wordOfNat v = none

/-! ## Encoding -/

/-- R62: a few command words written out from the opcode map and the decode table of 95_test_vectors.md 2.6. -/
def Obligations.SampleCommandWordsDecode : Prop :=
  decode 0x017#11 = .ok (.shl 23) ∧ decode 0x09A#11 = .ok (.shr 26) ∧
    decode 0x155#11 = .ok (.xor 85) ∧ decode 0x300#11 = .ok (.addb 0) ∧
    decode 0x480#11 = .ok (.seed 0) ∧ decode 0x57F#11 = .ok (.next 127) ∧
    decode 0x580#11 = .ok (.cvt 0) ∧ decode 0x7FF#11 = .error (.reservedOpcode 15)

/-- R62, R63, R170: decoding is total and needs only `cmd[10:7]`; a presented command word runs the command of its opcode,
carrying `cmd[6:0]`, and a reserved one is the fault RESERVED_OPCODE unless the block already is faulted. -/
def Obligations.StepFollowsTheOpcodeMap : Prop :=
  ∀ (s : State) (cmd : CmdWord) (a b : Word) (rest : List Request),
    s.pending = .command cmd a b :: rest →
      let op := cmd.toNat / 128
      let cnt := cmd.toNat % 128
      let t : State := { s with a := a, b := b, pending := rest }
      (op ≤ 11 ↔ ∃ i : Instr, decode cmd = .ok i) ∧
      step s =
        if op = 0 then exec (.shl cnt) t else if op = 1 then exec (.shr cnt) t
        else if op = 2 then exec (.xor cnt) t else if op = 3 then exec (.and cnt) t
        else if op = 4 then exec (.or cnt) t else if op = 5 then exec (.not cnt) t
        else if op = 6 then exec (.addb cnt) t else if op = 7 then exec (.mulb cnt) t
        else if op = 8 then exec (.clone cnt) t else if op = 9 then exec (.seed cnt) t
        else if op = 10 then exec (.next cnt) t else if op = 11 then exec (.cvt cnt) t
        else if s.fault then .next { t with result := none }
        else .next { t with fault := true, fcause := 3#3, result := none }

/-- R60, R63: decoding the encoding of any well-formed command, with any count the field holds, gives it back. -/
def Obligations.DecodeOfEncodeIsTheCommand : Prop :=
  ∀ i : Instr, i.WellFormed → decode (encode i) = .ok i

/-- R60, R63: a command word that decodes to a command is what the encoder gives for that command, count included, and the
command is well formed. (By R65 several words, which decode to commands that differ in an unread count, have one MEANING:
`CountIsIgnoredOutsideShifts`.) -/
def Obligations.EncodeOfDecodeIsTheWord : Prop :=
  ∀ (cmd : CmdWord) (i : Instr), decode cmd = .ok i → i.WellFormed ∧ encode i = cmd

/-- R65: outside format S the count is not read: commands with one opcode act alike, whatever their counts, and the
canonical command is one of them. -/
def Obligations.CountIsIgnoredOutsideShifts : Prop :=
  ∀ (i j : Instr) (s : State), (formatOf i).readsCnt = false → opcode i = opcode j →
    exec i s = exec j s ∧ exec (canonical i) s = exec i s ∧ (canonical i).count = 0

/-- R66: a port the format does not list may hold anything: changing it changes nothing else of the outcome. -/
def Obligations.UnreadPortsDoNotMatter : Prop :=
  ∀ (i : Instr) (s : State) (x : Word), ∃ t : State, exec i s = .next t ∧
    ((formatOf i).readsA = false → exec i { s with a := x } = .next { t with a := x }) ∧
    ((formatOf i).readsB = false → exec i { s with b := x } = .next { t with b := x })

/-- R70, R62, R65: line by line, what the host presents: the word that decodes to the line's own command, with the written
count for SHL and SHR and 0 otherwise, the first operand's value on `a`, the second's on `b`. A shift count of 128 or more
(R64: it can not be written in the field) and an operand without a value give no request. What `$n` counts is DEDUCED
(log 15), and nothing is said of the ports a line does not use. -/
def Obligations.AssembledLinesAreCanonicalCommands : Prop :=
  (∀ (returned : List (Option Word)) (w : Word) (n : Nat),
    (Operand.word w).value returned = some w ∧ (Operand.prior 0).value returned = none ∧
    (∀ v, (Operand.prior (n + 1)).value returned = some v ↔ returned[n]? = some (some v))) ∧
  (∀ (returned : List (Option Word)) (x : Operand) (v : Word), x.value returned = some v →
    (∀ n, n < 128 →
      (∃ cmd b, (Line.shl x n).request returned = some (.command cmd v b) ∧ decode cmd = .ok (.shl n)) ∧
      (∃ cmd b, (Line.shr x n).request returned = some (.command cmd v b) ∧ decode cmd = .ok (.shr n))) ∧
    (∃ cmd b, (Line.not x).request returned = some (.command cmd v b) ∧ decode cmd = .ok (.not 0)) ∧
    (∃ cmd b, (Line.clone x).request returned = some (.command cmd v b) ∧ decode cmd = .ok (.clone 0)) ∧
    (∃ cmd b, (Line.cvt x).request returned = some (.command cmd v b) ∧ decode cmd = .ok (.cvt 0)) ∧
    ∀ (y : Operand) (w : Word), y.value returned = some w →
      (∃ cmd, (Line.xor x y).request returned = some (.command cmd v w) ∧ decode cmd = .ok (.xor 0)) ∧
      (∃ cmd, (Line.and x y).request returned = some (.command cmd v w) ∧ decode cmd = .ok (.and 0)) ∧
      (∃ cmd, (Line.or x y).request returned = some (.command cmd v w) ∧ decode cmd = .ok (.or 0)) ∧
      (∃ cmd, (Line.addb x y).request returned = some (.command cmd v w) ∧ decode cmd = .ok (.addb 0)) ∧
      (∃ cmd, (Line.mulb x y).request returned = some (.command cmd v w) ∧ decode cmd = .ok (.mulb 0)) ∧
      (∃ cmd, (Line.seed x y).request returned = some (.command cmd v w) ∧ decode cmd = .ok (.seed 0))) ∧
  (∀ returned : List (Option Word), Line.reset.request returned = some .reset ∧
    ∃ cmd a b, Line.next.request returned = some (.command cmd a b) ∧ decode cmd = .ok (.next 0)) ∧
  (∀ (returned : List (Option Word)) (x : Operand) (n : Nat), 128 ≤ n →
    (Line.shl x n).request returned = none ∧ (Line.shr x n).request returned = none) ∧
  (∀ (returned : List (Option Word)) (x y : Operand) (n : Nat), x.value returned = none →
    ∀ l ∈ [Line.shl x n, .shr x n, .not x, .clone x, .cvt x, .xor x y, .and x y, .or x y, .addb x y,
      .mulb x y, .seed x y, .xor y x, .and y x, .or y x, .addb y x, .mulb y x, .seed y x],
      l.request returned = none) ∧
  ∀ (l : Line) (returned : List (Option Word)) (cmd : CmdWord) (a b : Word),
    l.request returned = some (.command cmd a b) →
      ∃ i : Instr, decode cmd = .ok i ∧ canonical i = i

/-! ## The shifter -/

/-- R82: SHL with a legal count returns `(a * 2^cnt) mod 2^64` and changes nothing else. -/
def Obligations.ShlReturnsTheLogicalLeftShift : Prop :=
  ∀ (s : State) (cnt : Nat), s.fault = false → 1 ≤ cnt → cnt ≤ 71 →
    ∃ r : Word, exec (.shl cnt) s = .next { s with result := some r } ∧
      r.toNat = s.a.toNat * 2 ^ cnt % 2 ^ 64 ∧
      (∀ i, i < 64 → r.getLsbD i = if cnt ≤ i then s.a.getLsbD (i - cnt) else false) ∧
      (64 ≤ cnt → r = 0#64)

/-- R85: SHR with a legal count returns `floor(a / 2^cnt)` and changes nothing else. -/
def Obligations.ShrReturnsTheLogicalRightShift : Prop :=
  ∀ (s : State) (cnt : Nat), s.fault = false → 1 ≤ cnt → cnt ≤ 71 →
    ∃ r : Word, exec (.shr cnt) s = .next { s with result := some r } ∧
      r.toNat = s.a.toNat / 2 ^ cnt ∧
      (∀ i, i < 64 → r.getLsbD i = if i + cnt ≤ 63 then s.a.getLsbD (i + cnt) else false) ∧
      (64 ≤ cnt → r = 0#64)

/-- R161: SHL or SHR with count 0 is the fault SHIFT_COUNT_ZERO (1) and returns no value. -/
def Obligations.ShiftCountZeroFaults : Prop :=
  ∀ s : State, s.fault = false →
    exec (.shl 0) s = .next { s with fault := true, fcause := 1#3, result := none } ∧
    exec (.shr 0) s = .next { s with fault := true, fcause := 1#3, result := none }

/-- R162: SHL or SHR with a count of 72 or more is the fault SHIFT_COUNT_TOO_WIDE (2) and returns no value; counts 64 to
71 are no fault, and return 0. -/
def Obligations.ShiftCountTooWideFaults : Prop :=
  ∀ (s : State) (cnt : Nat), s.fault = false →
    (72 ≤ cnt →
      exec (.shl cnt) s = .next { s with fault := true, fcause := 2#3, result := none } ∧
      exec (.shr cnt) s = .next { s with fault := true, fcause := 2#3, result := none }) ∧
    (64 ≤ cnt → cnt ≤ 71 →
      exec (.shl cnt) s = .next { s with result := some 0#64 } ∧
      exec (.shr cnt) s = .next { s with result := some 0#64 })

/-- R87: for every word and every legal count the byte and bit stages D00 narrates (R83, R86) give the shift. -/
def Obligations.ShifterStagesGiveTheShift : Prop :=
  ∀ (w : Word) (n : Nat), 1 ≤ n → n ≤ 71 →
    shlStages w n = shl64 w n ∧ shrStages w n = shr64 w n ∧
    (64 ≤ n → shlStages w n = 0#64 ∧ shrStages w n = 0#64)

/-- R88: the boundary properties D00 lists. -/
def Obligations.WholeByteShiftsMoveBytes : Prop :=
  (∀ w : Word, bytesOf (shl64 w 8) = (bytesOf w).drop 1 ++ [0#8] ∧
    bytesOf (shr64 w 8) = 0#8 :: (bytesOf w).take 7) ∧
  shl64 0x0000000000000001#64 1 = 0x0000000000000002#64 ∧
  ∀ (w : Word) (n : Nat), n / 8 = 8 → shl64 w n = 0#64

/-! ## The ALU -/

/-- R101. -/
def Obligations.XorReturnsTheExclusiveOr : Prop :=
  encode (.xor 0) = 0x100#11 ∧
  ∀ (s : State) (cnt : Nat), s.fault = false →
    ∃ r : Word, exec (.xor cnt) s = .next { s with result := some r } ∧
      (∀ i, i < 64 → (r.getLsbD i = true ↔ s.a.getLsbD i ≠ s.b.getLsbD i)) ∧
      (∀ i, i < 8 → byte r i = byte s.a i ^^^ byte s.b i) ∧
      (s.a = s.b → r = 0#64) ∧ (s.b = 0#64 → r = s.a) ∧
      (s.b = 0xFFFFFFFFFFFFFFFF#64 → r = ~~~s.a)

/-- R102. -/
def Obligations.AndReturnsTheConjunction : Prop :=
  encode (.and 0) = 0x180#11 ∧
  ∀ (s : State) (cnt : Nat), s.fault = false →
    ∃ r : Word, exec (.and cnt) s = .next { s with result := some r } ∧
      (∀ i, i < 64 → (r.getLsbD i = true ↔ s.a.getLsbD i = true ∧ s.b.getLsbD i = true)) ∧
      (s.b = 0xFFFFFFFFFFFFFFFF#64 → r = s.a) ∧ (s.b = 0#64 → r = 0#64) ∧
      (s.a = s.b → r = s.a)

/-- R103. -/
def Obligations.OrReturnsTheDisjunction : Prop :=
  encode (.or 0) = 0x200#11 ∧
  ∀ (s : State) (cnt : Nat), s.fault = false →
    ∃ r : Word, exec (.or cnt) s = .next { s with result := some r } ∧
      (∀ i, i < 64 → (r.getLsbD i = true ↔ s.a.getLsbD i = true ∨ s.b.getLsbD i = true)) ∧
      (s.b = 0#64 → r = s.a) ∧
      (s.b = 0xFFFFFFFFFFFFFFFF#64 → r = 0xFFFFFFFFFFFFFFFF#64) ∧ (s.a = s.b → r = s.a)

/-- R104: NOT, and NOT of what it returned gives the first word back. -/
def Obligations.NotReturnsTheComplement : Prop :=
  encode (.not 0) = 0x280#11 ∧
  ∀ (s : State) (cnt : Nat), s.fault = false →
    ∃ r : Word, exec (.not cnt) s = .next { s with result := some r } ∧
      (∀ i, i < 64 → r.getLsbD i ≠ s.a.getLsbD i) ∧ r.toNat = 2 ^ 64 - 1 - s.a.toNat ∧
      exec (.not cnt) { s with a := r } = .next { s with a := r, result := some s.a }

/-- R105: each lane is added modulo 256 with no carry between lanes. -/
def Obligations.AddbAddsEachLaneAlone : Prop :=
  encode (.addb 0) = 0x300#11 ∧
  ∀ (s : State) (cnt : Nat), s.fault = false →
    ∃ r : Word, exec (.addb cnt) s = .next { s with result := some r } ∧
      (∀ i, i < 8 → (byte r i).toNat = ((byte s.a i).toNat + (byte s.b i).toNat) % 256) ∧
      (s.a = 0x00000000000000FF#64 ∧ s.b = 0x0000000000000001#64 → r = 0#64) ∧
      (s.a = 0xFFFFFFFFFFFFFFFF#64 ∧ s.b = 0xFFFFFFFFFFFFFFFF#64 → r = 0xFEFEFEFEFEFEFEFE#64) ∧
      (s.b = 0#64 → r = s.a) ∧
      ((∀ i, i < 8 → (byte s.a i).toNat + (byte s.b i).toNat < 256) → r = s.a + s.b)

/-- R106: each lane is multiplied and the low 8 bits are kept. -/
def Obligations.MulbMultipliesEachLaneAlone : Prop :=
  encode (.mulb 0) = 0x380#11 ∧
  ∀ (s : State) (cnt : Nat), s.fault = false →
    ∃ r : Word, exec (.mulb cnt) s = .next { s with result := some r } ∧
      (∀ i, i < 8 → (byte r i).toNat = (byte s.a i).toNat * (byte s.b i).toNat % 256) ∧
      (s.b = 0x0101010101010101#64 → r = s.a) ∧ (s.b = 0#64 → r = 0#64) ∧
      (s.a = 0xFFFFFFFFFFFFFFFF#64 ∧ s.b = 0xFFFFFFFFFFFFFFFF#64 → r = 0x0101010101010101#64)

/-- R107: the laws of the byte-lane operations, and when the byte-lane add is true addition: exactly when no lane but
lane 0 overflows; a lane that overflows shows in the lane above it. -/
def Obligations.ByteLaneLaws : Prop :=
  ∀ a b c : Word,
    addb a b = addb b a ∧ addb (addb a b) c = addb a (addb b c) ∧ addb a 0#64 = a ∧
    mulb a b = mulb b a ∧ mulb a 0x0101010101010101#64 = a ∧ mulb a 0#64 = 0#64 ∧
    (addb a b = a + b ↔ ∀ i, 1 ≤ i → i < 8 → (byte a i).toNat + (byte b i).toNat < 256) ∧
    ∀ i, 1 ≤ i → i < 8 → 256 ≤ (byte a i).toNat + (byte b i).toNat →
      byte (addb a b) (i - 1) ≠ byte (a + b) (i - 1)

/-- R108: CLONE returns its operand and changes nothing else. -/
def Obligations.CloneReturnsItsOperand : Prop :=
  encode (.clone 0) = 0x400#11 ∧
  ∀ (s : State) (cnt : Nat), s.fault = false →
    exec (.clone cnt) s = .next { s with result := some s.a }

/-! ## The generator -/

/-- R121, R164: SEED loads both words and sets `seeded`; a SEED of a seeded block is the fault RESEED (5) and leaves the
words alone. -/
def Obligations.SeedLoadsTheStateWordsOnce : Prop :=
  encode (.seed 0) = 0x480#11 ∧
  ∀ (s : State) (cnt : Nat), s.fault = false →
    (s.seeded = false → exec (.seed cnt) s =
      .next { s with state0 := s.a, state1 := s.b, seeded := true, result := none }) ∧
    (s.seeded = true → exec (.seed cnt) s =
      .next { s with fault := true, fcause := 5#3, result := none })

/-- R163: NEXT of an unseeded block is the fault NOT_SEEDED (4). -/
def Obligations.NextUnseededFaults : Prop :=
  ∀ (s : State) (cnt : Nat), s.fault = false → s.seeded = false →
    exec (.next cnt) s = .next { s with fault := true, fcause := 4#3, result := none }

/-- R127: NEXT in closed form, over integers. -/
def Obligations.NextFollowsTheClosedForm : Prop :=
  ∀ (s : State) (cnt : Nat), s.fault = false → s.seeded = true →
    ∃ A B n1 r : Word,
      A = s.state0 ^^^ BitVec.ofNat 64 (s.state0.toNat * 2 ^ 23) ∧
      B = A ^^^ BitVec.ofNat 64 (A.toNat / 2 ^ 17) ∧
      n1 = B ^^^ s.state1 ^^^ BitVec.ofNat 64 (s.state1.toNat / 2 ^ 26) ∧
      f64 r = some ((((addb s.state1 n1).toNat % 2 ^ 52 : Nat) : ℚ) / 2 ^ 52) ∧
      exec (.next cnt) s =
        .next { s with state0 := s.state1, state1 := n1, result := some r }

/-- R126: D00's eight steps on mutable registers, whatever the working registers held before, give NEXT's next state, and
its result is the double in `tmp` minus 1.0. -/
def Obligations.NextAgreesWithTheEightSteps : Prop :=
  ∀ (s : State) (cnt : Nat) (s0 s1 c tmp : Word), s.fault = false → s.seeded = true →
    let w := nextInSteps ⟨s.state0, s.state1, s0, s1, c, tmp⟩
    ∃ (r : Word) (v : ℚ), f64 w.tmp = some v ∧ f64 r = some (v - 1) ∧
      w.s0 = shr64 s.state1 26 ∧
      exec (.next cnt) s =
        .next { s with state0 := w.state0, state1 := w.state1, result := some r }

/-- R122: the all-zero seed is legal, and with both words zero NEXT leaves them zero and returns +0.0. -/
def Obligations.AllZeroSeedIsAFixedPoint : Prop :=
  ∀ (s : State) (cnt : Nat), s.fault = false →
    (s.seeded = false → s.a = 0#64 → s.b = 0#64 → exec (.seed cnt) s =
      .next { s with state0 := 0#64, state1 := 0#64, seeded := true, result := none }) ∧
    (s.seeded = true → s.state0 = 0#64 → s.state1 = 0#64 → exec (.next cnt) s =
      .next { s with result := some 0x0000000000000000#64 })

/-- R128: the state update alone: `state0` becomes the old `state1`; it is linear over exclusive or, hence maps zero to
zero; and what it does when the first word is zero. -/
def Obligations.StateUpdateIsLinear : Prop :=
  (∀ x0 x1 : Word, (advance x0 x1).1 = x1) ∧
  (∀ x0 x1 y0 y1 : Word, (advance (x0 ^^^ y0) (x1 ^^^ y1)).2 = (advance x0 x1).2 ^^^ (advance y0 y1).2) ∧
  advance 0#64 0#64 = (0#64, 0#64) ∧
  ∀ x1 : Word, advance 0#64 x1 = (x1, x1 ^^^ BitVec.ofNat 64 (x1.toNat / 2 ^ 26))

/-- R129: every value NEXT returns is a double `v = f * 2^-52` with `0 <= v < 1`, and its pattern is at most that of
`1 - 2^-52`. -/
def Obligations.NextReturnsADoubleInTheUnitInterval : Prop :=
  ∀ (s : State) (cnt : Nat), s.fault = false → s.seeded = true →
    ∃ (t : State) (r : Word) (f : Nat), exec (.next cnt) s = .next t ∧ t.result = some r ∧
      f ≤ 2 ^ 52 - 1 ∧ f64 r = some ((f : ℚ) / 2 ^ 52) ∧
      0 ≤ (f : ℚ) / 2 ^ 52 ∧ (f : ℚ) / 2 ^ 52 < 1 ∧ r.toNat ≤ 0x3FEFFFFFFFFFFFFE

/-- R131: in a run without resets that goes right, from a seeded block, the results of the NEXTs are the stream of the two
state words, and the final words are those after as many NEXTs, whatever other commands stand between them and whatever
operands they carry. R166, R202: and from `fault = 0` and `seeded = 1` every sequence of commands of opcodes other than 9
(SEED) and 12 to 15, with shift counts 1 to 71, does go right, each command returning a value. -/
def Obligations.StreamDependsOnTheSeedAndTheCallCount : Prop :=
  (∀ s t : State, s.seeded = true → (∀ r ∈ s.pending, r ≠ .reset) → GoneRight s t →
    let n := s.pending.countP isNext
    nextResults s.pending.length s =
      (List.range n).map (fun k => some (streamWord s.state0 s.state1 k)) ∧
    (t.state0, t.state1) = wordsAfter n (s.state0, s.state1)) ∧
  ∀ s : State, s.seeded = true → s.fault = false →
    (∀ r ∈ s.pending, ∃ (cmd : CmdWord) (a b : Word), r = .command cmd a b ∧
      cmd.toNat / 128 ≤ 11 ∧ cmd.toNat / 128 ≠ 9 ∧
      (cmd.toNat / 128 ≤ 1 → 1 ≤ cmd.toNat % 128 ∧ cmd.toNat % 128 ≤ 71)) →
      ∃ t : State, GoneRight s t ∧ t.fault = false ∧
        (runResults s.pending.length s).length = s.pending.length

/-! ## The converter -/

/-- R144, R145, R147: `raw(w)` is the double `1 + f * 2^-52` and `cvt(w)` is that value minus 1.0, exactly. -/
def Obligations.ConverterSubtractsOneExactly : Prop :=
  ∀ w : Word, ∃ v : ℚ, v = 1 + (((w.toNat % 2 ^ 52 : Nat) : ℚ) / 2 ^ 52) ∧
    1 ≤ v ∧ v < 2 ∧ f64 (raw w) = some v ∧ f64 (cvt w) = some (v - 1)

/-- R143: masking, then exponent forcing: sign 0, exponent 1023, the low 52 bits kept. -/
def Obligations.RawForcesTheExponent : Prop :=
  ∀ w : Word, (raw w).toNat = 0x3FF * 2 ^ 52 + w.toNat % 2 ^ 52

/-- R146: CVT returns the conversion of `a` and changes nothing else; the corner cases. -/
def Obligations.CvtReturnsTheConversion : Prop :=
  encode (.cvt 0) = 0x580#11 ∧
  ∀ (s : State) (cnt : Nat), s.fault = false →
    ∃ r : Word, exec (.cvt cnt) s = .next { s with result := some r } ∧
      f64 r = some (((s.a.toNat % 2 ^ 52 : Nat) : ℚ) / 2 ^ 52) ∧
      (s.a.toNat % 2 ^ 52 = 0 → r = 0x0000000000000000#64) ∧
      (s.a.toNat % 2 ^ 52 = 2 ^ 52 - 1 → r = 0x3FEFFFFFFFFFFFFE#64) ∧
      (s.a = 0x0000000000000001#64 → r = 0x3CB0000000000000#64) ∧
      (s.a = 0x0008000000000000#64 → r = 0x3FE0000000000000#64) ∧
      (∀ x : Word, x.toNat % 2 ^ 52 = s.a.toNat % 2 ^ 52 →
        exec (.cvt cnt) { s with a := x } = .next { s with a := x, result := some r })

/-- R148: every returned pattern is +0.0 or has sign 0 and an exponent from 971 to 1022, with the low bits of the fraction
0; and all multiples of `2^-52` below 1 are returned. -/
def Obligations.ConverterResultsAreNormalOrZero : Prop :=
  (∀ w : Word, cvt w = 0#64 ∨
    (signField (cvt w) = 0 ∧ 971 ≤ exponentField (cvt w) ∧ exponentField (cvt w) ≤ 1022 ∧
      fractionField (cvt w) % 2 ^ (1023 - exponentField (cvt w)) = 0 ∧
      0x3CB0000000000000 ≤ (cvt w).toNat ∧ (cvt w).toNat ≤ 0x3FEFFFFFFFFFFFFE)) ∧
  ∀ f : Nat, f ≤ 2 ^ 52 - 1 → ∃ w : Word, f64 (cvt w) = some ((f : ℚ) / 2 ^ 52)

/-- R151: of the converted word, lanes 2 to 7 enter the result whole, the low four bits of lane 1 enter it, and nothing
else does. -/
def Obligations.ConverterReadsExactlyTheLowLanes : Prop :=
  ∀ x y : Word, cvt x = cvt y ↔
    ((∀ i, 2 ≤ i → i < 8 → byte x i = byte y i) ∧ (byte x 1).toNat % 16 = (byte y 1).toNat % 16)

/-! ## Faults and whole-machine rules -/

/-- R165: taking a fault is precise: whichever command word takes it, `fault` and `fcause` are all of the block's state that
changes, no value is returned, and the recorded cause is one of the five of R160. -/
def Obligations.TakingAFaultChangesOnlyTheFaultFlags : Prop :=
  ∀ (s t : State) (cmd : CmdWord) (a b : Word) (rest : List Request),
    s.pending = .command cmd a b :: rest → s.fault = false → step s = .next t → t.fault = true →
      t = { s with
        a := a, b := b, pending := rest, fault := true, fcause := t.fcause, result := none } ∧
      1 ≤ t.fcause.toNat ∧ t.fcause.toNat ≤ 5

/-- R160: from a state with no fault recorded, which command words raise which code, exactly. The premise `s.Inv` is the
invariant of `EveryStepKeepsTheFlagRelations`; it says that `fcause` is 0 while `fault` is. -/
def Obligations.FaultCausesAreExactlyThoseListed : Prop :=
  ∀ (s : State) (cmd : CmdWord) (a b : Word) (rest : List Request),
    s.pending = .command cmd a b :: rest → s.fault = false → s.Inv →
      ∃ t : State, step s = .next t ∧
        (t.fcause = 0#3 ↔ t.fault = false) ∧
        (t.fcause = 1#3 ↔ decode cmd = .ok (.shl 0) ∨ decode cmd = .ok (.shr 0)) ∧
        (t.fcause = 2#3 ↔ ∃ n, 72 ≤ n ∧ (decode cmd = .ok (.shl n) ∨ decode cmd = .ok (.shr n))) ∧
        (t.fcause = 3#3 ↔ 0x600 ≤ cmd.toNat) ∧
        (t.fcause = 4#3 ↔ s.seeded = false ∧ ∃ n, decode cmd = .ok (.next n)) ∧
        (t.fcause = 5#3 ↔ s.seeded = true ∧ ∃ n, decode cmd = .ok (.seed n)) ∧
        t.fcause ≠ 6#3 ∧ t.fcause ≠ 7#3

/-- R166: while `fault = 1` every command word, reserved ones too, has no effect and returns no value. -/
def Obligations.FaultedBlockIgnoresCommands : Prop :=
  ∀ (s : State) (cmd : CmdWord) (a b : Word) (rest : List Request),
    s.fault = true → s.pending = .command cmd a b :: rest →
      step s = .next { s with a := a, b := b, pending := rest, result := none }

/-- R171: only a reset clears `fault`. -/
def Obligations.OnlyResetLeavesTheFault : Prop :=
  ∀ s t : State, step s = .next t → s.fault = true → t.fault = false →
    ∃ rest : List Request, s.pending = .reset :: rest

/-- R24: `seeded` is never cleared except by reset, and never set except by a SEED. -/
def Obligations.SeededChangesOnlyBySeedAndReset : Prop :=
  ∀ s t : State, step s = .next t →
    (s.seeded = true → t.seeded = false → ∃ rest, s.pending = .reset :: rest) ∧
    (s.seeded = false → t.seeded = true → ∃ cmd a b rest n,
      s.pending = .command cmd a b :: rest ∧ decode cmd = .ok (.seed n) ∧
        t.state0 = a ∧ t.state1 = b)

/-- R21, R51: no command but SEED and NEXT writes a state word or `seeded`, whether it completes or faults. -/
def Obligations.OnlySeedAndNextWriteTheStateWords : Prop :=
  ∀ (i : Instr) (s t : State), exec i s = .next t →
    (∀ n, i ≠ .seed n) → (∀ n, i ≠ .next n) →
      t.state0 = s.state0 ∧ t.state1 = s.state1 ∧ t.seeded = s.seeded

/-- R21: the outcome of a command other than NEXT does not depend on what the state words hold: two blocks that differ only
in them show the same result and the same flags. -/
def Obligations.OnlyNextRevealsTheStateWords : Prop :=
  ∀ (i : Instr) (s : State) (x0 x1 : Word), (∀ n, i ≠ .next n) →
    ∃ t u : State, exec i s = .next t ∧
      exec i { s with state0 := x0, state1 := x1 } = .next u ∧
      t.result = u.result ∧ t.seeded = u.seeded ∧ t.fault = u.fault ∧ t.fcause = u.fcause

/-- R49, R89, R111: a pure command presented twice returns the same word twice. -/
def Obligations.PureCommandsRepeat : Prop :=
  ∀ (i : Instr) (s t : State), (∀ n, i ≠ .seed n) → (∀ n, i ≠ .next n) →
    exec i s = .next t → exec i t = .next t

/-- R205: every command answers a next state, which may be one with a fault taken or, in a faulted block, one with nothing
done. The second clause says the same of every step, of the reset step (log 9) and the idle step (log 12) too, which R205
does not speak of. -/
def Obligations.EveryCommandCompletes : Prop :=
  (∀ (i : Instr) (s : State), ∃ t : State, exec i s = .next t) ∧
  ∀ s : State, ∃ t : State, step s = .next t

/-- The invariant of the flags (`State.Inv`) holds at reset. -/
def Obligations.ResetSatisfiesTheFlagRelations : Prop := State.reset.Inv

/-- Every step keeps the invariant of the flags, from every state that has it. -/
def Obligations.EveryStepKeepsTheFlagRelations : Prop :=
  ∀ s t : State, s.Inv → step s = .next t → t.Inv

/-! ## Normal execution and runs -/

/-- R169, R170: with `fault = 0` and its own precondition met (a count 1 to 71 for SHL and SHR, `seeded = 0` for SEED,
`seeded = 1` for NEXT, nothing for the others) every command completes without a fault, and returns a value unless it is
SEED. -/
def Obligations.CommandsSucceedWhenTheirCheckPasses : Prop :=
  ∀ (i : Instr) (s : State), s.fault = false →
    (∀ n, i = .shl n ∨ i = .shr n → 1 ≤ n ∧ n ≤ 71) →
    (∀ n, i = .seed n → s.seeded = false) → (∀ n, i = .next n → s.seeded = true) →
      ∃ t : State, exec i s = .next t ∧ t.fault = false ∧ t.fcause = s.fcause ∧ t.seeded = (s.seeded || opcode i == 9) ∧
        (t.result.isSome = true ↔ opcode i ≠ 9)

/-- R202, R33, R203: the observable outcome of a run that starts with a reset, its results and the final flags, is a
function of the presented requests alone: whatever two blocks hold before, state words and faults among it, the outcome
is one and the same, and there is one. -/
def Obligations.RunOutcomeDependsOnlyOnTheRequests : Prop :=
  ∀ (s t : State) (rest : List Request), s.pending = .reset :: rest → t.pending = .reset :: rest →
    ∃ o : RunOutcome, runOutcome s = some o ∧ runOutcome t = some o

/-- R202: a run whose last command leaves `fault = 1` has not gone right, whatever requests come before that command and
whatever resets follow it. -/
def Obligations.ResetsAfterAFaultDoNotMakeARunRight : Prop :=
  ∀ (s u t : State) (pre resets : List Request) (cmd : CmdWord) (a b : Word),
    s.pending = pre ++ .command cmd a b :: resets → (∀ r ∈ resets, r = .reset) →
      Host.Core.run Sys2Proof.core (pre.length + 1) s = .next u → u.fault = true → ¬ GoneRight s t
end

