-- ==== Sys2Proof/Laws/Converter.lean ====
section
/-! SUPPORT. The three fields of a binary64 pattern put together from its sign, exponent and fraction, and when a pattern
has a value. -/

namespace Sys2Proof.Machine

open Sys2Proof

variable (s : BitVec 1) (e : BitVec 11) (m : BitVec 52)

theorem fractionField_pattern : fractionField (s ++ e ++ m : Word) = m.toNat := by
  have h : (s ++ e ++ m : BitVec (1 + 11 + 52)).extractLsb' 0 52 = m := by
    ext i hi
    simp only [BitVec.getElem_extractLsb', BitVec.getLsbD_append]
    simp [hi]
  exact congrArg BitVec.toNat h

theorem exponentField_pattern : exponentField (s ++ e ++ m : Word) = e.toNat := by
  have h : (s ++ e ++ m : BitVec (1 + 11 + 52)).extractLsb' 52 11 = e := by
    ext i hi
    simp only [BitVec.getElem_extractLsb', BitVec.getLsbD_append]
    simp [show ¬ 52 + i < 52 by omega, hi]
  exact congrArg BitVec.toNat h

theorem signField_pattern : signField (s ++ e ++ m : Word) = s.toNat := by
  have h : (s ++ e ++ m : BitVec (1 + 11 + 52)).extractLsb' 63 1 = s := by
    ext i hi
    simp only [BitVec.getElem_extractLsb', BitVec.getLsbD_append]
    have : i = 0 := by omega
    subst this
    simp
  exact congrArg BitVec.toNat h

/-- A normal pattern has the value its fields give (R141). -/
theorem f64_of_normal {p : Word} (h1 : 1 ≤ exponentField p) (h2 : exponentField p ≤ 2046) :
    f64 p = some ((-1) ^ signField p * (2 : ℚ) ^ ((exponentField p : ℤ) - 1023) *
      (1 + (fractionField p : ℚ) / 2 ^ 52)) := by
  simp [f64, h1, h2]

theorem f64_zero : f64 0#64 = some 0 := by
  have h : exponentField 0#64 = 0 := by decide
  simp [f64, h]

/-- The fraction field is the word modulo `2^52`. -/
theorem fractionField_eq_mod (w : Word) : fractionField w = w.toNat % 2 ^ 52 := by
  simp [fractionField, BitVec.extractLsb'_toNat]

end Sys2Proof.Machine
end

