-- ==== Sys2Proof/Laws/Encoding.lean ====
section
/-! SUPPORT. The two fields of a command word built from an opcode and a count. -/

namespace Sys2Proof

theorem opField_append (op : BitVec 4) (cnt : BitVec 7) : opField (op ++ cnt : CmdWord) = op.toNat := by
  have h : (op ++ cnt : BitVec (4 + 7)).extractLsb' 7 4 = op := by
    ext i hi
    simp only [BitVec.getElem_extractLsb', BitVec.getLsbD_append]
    simp [show ¬ 7 + i < 7 by omega, BitVec.getLsbD_eq_getElem hi]
  exact congrArg BitVec.toNat h

theorem cntField_append (op : BitVec 4) (cnt : BitVec 7) : cntField (op ++ cnt : CmdWord) = cnt.toNat := by
  have h : (op ++ cnt : BitVec (4 + 7)).extractLsb' 0 7 = cnt := by
    ext i hi
    simp only [BitVec.getElem_extractLsb', BitVec.getLsbD_append]
    simp [hi]
  exact congrArg BitVec.toNat h

theorem opField_lt (cmd : CmdWord) : opField cmd < 16 := (cmd.extractLsb' 7 4).isLt

theorem cntField_lt (cmd : CmdWord) : cntField cmd < 128 := (cmd.extractLsb' 0 7).isLt

/-- The encoder puts the opcode in bits 10 to 7. -/
theorem opField_encode (i : Instr) : opField (encode i) = opcode i := by
  unfold encode
  rw [opField_append]
  cases i <;> rfl

/-- The encoder puts the count in bits 6 to 0, cut to seven bits. -/
theorem cntField_encode (i : Instr) : cntField (encode i) = i.count % 128 := by
  unfold encode
  rw [cntField_append, BitVec.toNat_ofNat]

end Sys2Proof
end

