-- ==== Sys2Proof/Laws/State.lean ====
section
/-! SUPPORT. What each named update of the state does to each field, one lemma each, so that no later proof unfolds a
record update. -/

namespace Sys2Proof.Machine

open Sys2Proof

variable (s : State)

@[simp] theorem State.returnWord_state0 (v : Word) : (s.returnWord v).state0 = s.state0 := rfl
@[simp] theorem State.returnWord_state1 (v : Word) : (s.returnWord v).state1 = s.state1 := rfl
@[simp] theorem State.returnWord_seeded (v : Word) : (s.returnWord v).seeded = s.seeded := rfl
@[simp] theorem State.returnWord_fault (v : Word) : (s.returnWord v).fault = s.fault := rfl
@[simp] theorem State.returnWord_fcause (v : Word) : (s.returnWord v).fcause = s.fcause := rfl
@[simp] theorem State.returnWord_result (v : Word) : (s.returnWord v).result = some v := rfl
@[simp] theorem State.returnWord_a (v : Word) : (s.returnWord v).a = s.a := rfl
@[simp] theorem State.returnWord_b (v : Word) : (s.returnWord v).b = s.b := rfl
@[simp] theorem State.returnWord_pending (v : Word) : (s.returnWord v).pending = s.pending := rfl
@[simp] theorem State.returnWord_epoch (v : Word) : (s.returnWord v).epoch = s.epoch := rfl

@[simp] theorem State.noValue_state0 : s.noValue.state0 = s.state0 := rfl
@[simp] theorem State.noValue_state1 : s.noValue.state1 = s.state1 := rfl
@[simp] theorem State.noValue_seeded : s.noValue.seeded = s.seeded := rfl
@[simp] theorem State.noValue_fault : s.noValue.fault = s.fault := rfl
@[simp] theorem State.noValue_fcause : s.noValue.fcause = s.fcause := rfl
@[simp] theorem State.noValue_result : s.noValue.result = none := rfl
@[simp] theorem State.noValue_a : s.noValue.a = s.a := rfl
@[simp] theorem State.noValue_b : s.noValue.b = s.b := rfl
@[simp] theorem State.noValue_pending : s.noValue.pending = s.pending := rfl
@[simp] theorem State.noValue_epoch : s.noValue.epoch = s.epoch := rfl

@[simp] theorem State.raiseFault_state0 (c : Cause) : (s.raiseFault c).state0 = s.state0 := rfl
@[simp] theorem State.raiseFault_state1 (c : Cause) : (s.raiseFault c).state1 = s.state1 := rfl
@[simp] theorem State.raiseFault_seeded (c : Cause) : (s.raiseFault c).seeded = s.seeded := rfl
@[simp] theorem State.raiseFault_fault (c : Cause) : (s.raiseFault c).fault = true := rfl
@[simp] theorem State.raiseFault_fcause (c : Cause) : (s.raiseFault c).fcause = c.code := rfl
@[simp] theorem State.raiseFault_result (c : Cause) : (s.raiseFault c).result = none := rfl
@[simp] theorem State.raiseFault_a (c : Cause) : (s.raiseFault c).a = s.a := rfl
@[simp] theorem State.raiseFault_b (c : Cause) : (s.raiseFault c).b = s.b := rfl
@[simp] theorem State.raiseFault_pending (c : Cause) : (s.raiseFault c).pending = s.pending := rfl
@[simp] theorem State.raiseFault_epoch (c : Cause) : (s.raiseFault c).epoch = s.epoch := rfl

@[simp] theorem State.loadSeed_state0 (w0 w1 : Word) : (s.loadSeed w0 w1).state0 = w0 := rfl
@[simp] theorem State.loadSeed_state1 (w0 w1 : Word) : (s.loadSeed w0 w1).state1 = w1 := rfl
@[simp] theorem State.loadSeed_seeded (w0 w1 : Word) : (s.loadSeed w0 w1).seeded = true := rfl
@[simp] theorem State.loadSeed_fault (w0 w1 : Word) : (s.loadSeed w0 w1).fault = s.fault := rfl
@[simp] theorem State.loadSeed_fcause (w0 w1 : Word) : (s.loadSeed w0 w1).fcause = s.fcause := rfl
@[simp] theorem State.loadSeed_result (w0 w1 : Word) : (s.loadSeed w0 w1).result = none := rfl
@[simp] theorem State.loadSeed_a (w0 w1 : Word) : (s.loadSeed w0 w1).a = s.a := rfl
@[simp] theorem State.loadSeed_b (w0 w1 : Word) : (s.loadSeed w0 w1).b = s.b := rfl
@[simp] theorem State.loadSeed_pending (w0 w1 : Word) : (s.loadSeed w0 w1).pending = s.pending := rfl
@[simp] theorem State.loadSeed_epoch (w0 w1 : Word) : (s.loadSeed w0 w1).epoch = s.epoch := rfl

@[simp] theorem State.writeWords_state0 (w0 w1 : Word) : (s.writeWords w0 w1).state0 = w0 := rfl
@[simp] theorem State.writeWords_state1 (w0 w1 : Word) : (s.writeWords w0 w1).state1 = w1 := rfl
@[simp] theorem State.writeWords_seeded (w0 w1 : Word) : (s.writeWords w0 w1).seeded = s.seeded := rfl
@[simp] theorem State.writeWords_fault (w0 w1 : Word) : (s.writeWords w0 w1).fault = s.fault := rfl
@[simp] theorem State.writeWords_fcause (w0 w1 : Word) : (s.writeWords w0 w1).fcause = s.fcause := rfl
@[simp] theorem State.writeWords_result (w0 w1 : Word) : (s.writeWords w0 w1).result = s.result := rfl
@[simp] theorem State.writeWords_a (w0 w1 : Word) : (s.writeWords w0 w1).a = s.a := rfl
@[simp] theorem State.writeWords_b (w0 w1 : Word) : (s.writeWords w0 w1).b = s.b := rfl
@[simp] theorem State.writeWords_pending (w0 w1 : Word) : (s.writeWords w0 w1).pending = s.pending := rfl
@[simp] theorem State.writeWords_epoch (w0 w1 : Word) : (s.writeWords w0 w1).epoch = s.epoch := rfl

@[simp] theorem State.present_state0 (a b : Word) (rest : List Request) : (s.present a b rest).state0 = s.state0 := rfl
@[simp] theorem State.present_state1 (a b : Word) (rest : List Request) : (s.present a b rest).state1 = s.state1 := rfl
@[simp] theorem State.present_seeded (a b : Word) (rest : List Request) : (s.present a b rest).seeded = s.seeded := rfl
@[simp] theorem State.present_fault (a b : Word) (rest : List Request) : (s.present a b rest).fault = s.fault := rfl
@[simp] theorem State.present_fcause (a b : Word) (rest : List Request) : (s.present a b rest).fcause = s.fcause := rfl
@[simp] theorem State.present_result (a b : Word) (rest : List Request) : (s.present a b rest).result = s.result := rfl
@[simp] theorem State.present_a (a b : Word) (rest : List Request) : (s.present a b rest).a = a := rfl
@[simp] theorem State.present_b (a b : Word) (rest : List Request) : (s.present a b rest).b = b := rfl
@[simp] theorem State.present_pending (a b : Word) (rest : List Request) : (s.present a b rest).pending = rest := rfl
@[simp] theorem State.present_epoch (a b : Word) (rest : List Request) : (s.present a b rest).epoch = s.epoch := rfl

@[simp] theorem State.applyReset_state0 : s.applyReset.state0 = Config.resetState0 (s.epoch + 1) := rfl
@[simp] theorem State.applyReset_state1 : s.applyReset.state1 = Config.resetState1 (s.epoch + 1) := rfl
@[simp] theorem State.applyReset_seeded : s.applyReset.seeded = false := rfl
@[simp] theorem State.applyReset_fault : s.applyReset.fault = false := rfl
@[simp] theorem State.applyReset_fcause : s.applyReset.fcause = 0#3 := rfl
@[simp] theorem State.applyReset_result : s.applyReset.result = none := rfl
@[simp] theorem State.applyReset_a : s.applyReset.a = s.a := rfl
@[simp] theorem State.applyReset_b : s.applyReset.b = s.b := rfl
@[simp] theorem State.applyReset_pending : s.applyReset.pending = s.pending := rfl
@[simp] theorem State.applyReset_epoch : s.applyReset.epoch = s.epoch + 1 := rfl

end Sys2Proof.Machine
end

