-- ==== Sys2Proof/Laws/Ops.lean ====
section
/-! SUPPORT. What each shared operation can do, said once; later proofs cite these and do not unfold the operations. -/

namespace Sys2Proof.Machine

open Sys2Proof

/-- A command presented to a block without a fault has its effect. -/
theorem whenLive_of_live {s : State} (h : s.fault = false) (f : State → State) :
    whenLive s f = .next (f s) := by
  simp [whenLive, h]

/-- A command presented to a faulted block changes nothing and returns no value. -/
theorem whenLive_of_faulted {s : State} (h : s.fault = true) (f : State → State) :
    whenLive s f = .next s.noValue := by
  simp [whenLive, h]

/-- Everything `whenLive` can answer: always a next state, of one of two kinds. -/
theorem whenLive_cases (s : State) (f : State → State) :
    (s.fault = true ∧ whenLive s f = .next s.noValue) ∨
      (s.fault = false ∧ whenLive s f = .next (f s)) := by
  cases h : s.fault
  · exact .inr ⟨rfl, whenLive_of_live h f⟩
  · exact .inl ⟨rfl, whenLive_of_faulted h f⟩

/-- The same, read from a next state. -/
theorem whenLive_next {s t : State} {f : State → State} (h : whenLive s f = .next t) :
    (s.fault = true ∧ t = s.noValue) ∨ (s.fault = false ∧ t = f s) := by
  rcases whenLive_cases s f with ⟨hf, he⟩ | ⟨hf, he⟩ <;> rw [he] at h <;> cases h
  · exact .inl ⟨hf, rfl⟩
  · exact .inr ⟨hf, rfl⟩

theorem checked_none (f : State → State) (s : State) : checked none f s = f s := rfl

theorem checked_some (c : Cause) (f : State → State) (s : State) :
    checked (some c) f s = s.raiseFault c := rfl

/-- Everything a checked command can do: take the fault its check names, or have its effect. -/
theorem checked_cases (v : Option Cause) (f : State → State) (s : State) :
    (∃ c, v = some c ∧ checked v f s = s.raiseFault c) ∨ (v = none ∧ checked v f s = f s) := by
  cases v with
  | none => exact .inr ⟨rfl, rfl⟩
  | some c => exact .inl ⟨c, rfl, rfl⟩

/-- The count check passes exactly on the counts 1 to 71. -/
theorem checkCount_eq_none_iff (cnt : Nat) : checkCount cnt = none ↔ 1 ≤ cnt ∧ cnt ≤ 71 := by
  unfold checkCount wordBytes
  split
  · simp; omega
  · split <;> simp <;> omega

theorem checkCount_zero : checkCount 0 = some .shiftCountZero := rfl

theorem checkCount_of_wide {cnt : Nat} (h : 72 ≤ cnt) : checkCount cnt = some .shiftCountTooWide := by
  have h0 : cnt ≠ 0 := by omega
  have h8 : wordBytes < cnt / 8 := by unfold wordBytes; omega
  simp [checkCount, h0, h8]

/-- Every recorded cause code lies in 1 to 5. -/
theorem Cause.code_range (c : Cause) : c.code ≠ 0#3 ∧ c.code.toNat ≤ 5 := by
  cases c <;> decide

theorem takeReserved_of_live {s : State} (h : s.fault = false) :
    takeReserved s = .next (s.raiseFault .reservedOpcode) := whenLive_of_live h _

theorem perform_of_decode_ok {cmd : CmdWord} {i : Instr} (h : decode cmd = .ok i) (s : State) :
    perform cmd s = exec i s := by
  simp [perform, h]

theorem perform_of_decode_error {cmd : CmdWord} {e : DecodeError} (h : decode cmd = .error e) (s : State) :
    perform cmd s = takeReserved s := by
  simp [perform, h]

end Sys2Proof.Machine
end

