-- ==== Sys2Proof/Laws/Exec.lean ====
section
/-! SUPPORT. One specification lemma per command: what its meaning answers in a block without a fault; and what every
command answers in a faulted one. Later proofs cite these and do not unfold the meanings. -/

namespace Sys2Proof.Machine

open Sys2Proof

variable {s : State} (cnt : Nat)

/-- Every command starts with `whenLive`, so in a faulted block each answers the same. -/
theorem exec_of_faulted (h : s.fault = true) (i : Instr) : exec i s = .next s.noValue := by
  cases i <;>
    simp only [exec, execShl, execShr, execXor, execAnd, execOr, execNot, execAddb, execMulb, execClone,
      execSeed, execNext, execCvt] <;>
    exact whenLive_of_faulted h _

theorem execShl_of_live (h : s.fault = false) :
    execShl cnt s = .next (checked (checkCount cnt) (fun t => t.returnWord (shl64 t.a cnt)) s) :=
  whenLive_of_live h _

theorem execShr_of_live (h : s.fault = false) :
    execShr cnt s = .next (checked (checkCount cnt) (fun t => t.returnWord (shr64 t.a cnt)) s) :=
  whenLive_of_live h _

theorem execXor_of_live (h : s.fault = false) : execXor cnt s = .next (s.returnWord (s.a ^^^ s.b)) := by
  rw [execXor, whenLive_of_live h]

theorem execAnd_of_live (h : s.fault = false) : execAnd cnt s = .next (s.returnWord (s.a &&& s.b)) := by
  rw [execAnd, whenLive_of_live h]

theorem execOr_of_live (h : s.fault = false) : execOr cnt s = .next (s.returnWord (s.a ||| s.b)) := by
  rw [execOr, whenLive_of_live h]

theorem execNot_of_live (h : s.fault = false) : execNot cnt s = .next (s.returnWord (~~~s.a)) := by
  rw [execNot, whenLive_of_live h]

theorem execAddb_of_live (h : s.fault = false) : execAddb cnt s = .next (s.returnWord (addb s.a s.b)) := by
  rw [execAddb, whenLive_of_live h]

theorem execMulb_of_live (h : s.fault = false) : execMulb cnt s = .next (s.returnWord (mulb s.a s.b)) := by
  rw [execMulb, whenLive_of_live h]

theorem execClone_of_live (h : s.fault = false) : execClone cnt s = .next (s.returnWord s.a) := by
  rw [execClone, whenLive_of_live h]

theorem execCvt_of_live (h : s.fault = false) : execCvt cnt s = .next (s.returnWord (cvt s.a)) := by
  rw [execCvt, whenLive_of_live h]

theorem execSeed_of_live (h : s.fault = false) :
    execSeed cnt s = .next (if s.seeded then s.raiseFault .reseed else s.loadSeed s.a s.b) := by
  rw [execSeed, whenLive_of_live h]
  cases hs : s.seeded <;> simp [checked]

theorem execNext_of_live (h : s.fault = false) :
    execNext cnt s = .next (if s.seeded then
      (s.writeWords (advance s.state0 s.state1).1 (advance s.state0 s.state1).2).returnWord
        (outputOf (advance s.state0 s.state1).1 (advance s.state0 s.state1).2)
      else s.raiseFault .notSeeded) := by
  rw [execNext, whenLive_of_live h]
  cases hs : s.seeded <;> simp [checked]

end Sys2Proof.Machine
end

