-- ==== Sys2Proof/Laws/Lanes.lean ====
section
/-! SUPPORT. Bytes of a word: reading a lane of a word built from lanes, and equality of words lane by lane. -/

namespace Sys2Proof.Machine

open Sys2Proof

/-- Bit `j` of byte `i` is bit `8 (7 - i) + j` of the word. -/
theorem getLsbD_byte (w : Word) {i j : Nat} (hj : j < 8) :
    (byte w i).getLsbD j = w.getLsbD (56 - 8 * i + j) := by
  simp [byte, hj]

/-- Bit `n` of a word built from lanes is bit `n % 8` of lane `7 - n / 8`. -/
theorem getLsbD_ofLanes (f : Nat → Byte) {n : Nat} (hn : n < 64) :
    (ofLanes f).getLsbD n = (f (7 - n / 8)).getLsbD (n % 8) := by
  have h : n / 8 < 8 := by omega
  have hm : n = 8 * (n / 8) + n % 8 := by omega
  generalize hq : n / 8 = q at *
  generalize hr : n % 8 = r at *
  have hr8 : r < 8 := by omega
  subst hm
  have happ : (ofLanes f).getLsbD (8 * q + r) =
      BitVec.getLsbD (w := 8 + 8 + 8 + 8 + 8 + 8 + 8 + 8)
        (f 0 ++ f 1 ++ f 2 ++ f 3 ++ f 4 ++ f 5 ++ f 6 ++ f 7) (8 * q + r) := rfl
  rw [happ]
  simp only [BitVec.getLsbD_append]
  interval_cases q <;> (repeat' split) <;> first | omega | (congr 1; omega)

/-- Reading a lane back. -/
theorem byte_ofLanes (f : Nat → Byte) {i : Nat} (hi : i < 8) : byte (ofLanes f) i = f i := by
  apply BitVec.eq_of_getLsbD_eq
  intro j hj
  rw [getLsbD_byte _ hj, getLsbD_ofLanes f (by omega)]
  have h1 : 7 - (56 - 8 * i + j) / 8 = i := by omega
  have h2 : (56 - 8 * i + j) % 8 = j := by omega
  rw [h1, h2]

/-- Words with equal lanes are equal. -/
theorem word_eq_of_bytes {x y : Word} (h : ∀ i, i < 8 → byte x i = byte y i) : x = y := by
  apply BitVec.eq_of_getLsbD_eq
  intro n hn
  have hb := congrArg (fun b : Byte => b.getLsbD (n % 8)) (h (7 - n / 8) (by omega))
  beta_reduce at hb
  rw [getLsbD_byte _ (by omega), getLsbD_byte _ (by omega)] at hb
  have hi : 56 - 8 * (7 - n / 8) + n % 8 = n := by omega
  rwa [hi] at hb

theorem byte_addb (a b : Word) {i : Nat} (hi : i < 8) : byte (addb a b) i = byte a i + byte b i :=
  byte_ofLanes _ hi

theorem byte_mulb (a b : Word) {i : Nat} (hi : i < 8) : byte (mulb a b) i = byte a i * byte b i :=
  byte_ofLanes _ hi

end Sys2Proof.Machine
end

