-- ==== Sys2Proof/Laws/PerInstr.lean ====
section
/-! SUPPORT. The family `TableRow`, per command: the encoded word matches the command's row of spec/opcode_table.json
(mask `0x780`, match `op * 128`, spec/30_encoding.md R63), whatever its count. -/

namespace Sys2Proof.Laws.TableRow

open Sys2Proof

/-- The `match` column of spec/opcode_table.json. -/
def matchOf : Instr → CmdWord
  | .shl _ => 0x000#11
  | .shr _ => 0x080#11
  | .xor _ => 0x100#11
  | .and _ => 0x180#11
  | .or _ => 0x200#11
  | .not _ => 0x280#11
  | .addb _ => 0x300#11
  | .mulb _ => 0x380#11
  | .clone _ => 0x400#11
  | .seed _ => 0x480#11
  | .next _ => 0x500#11
  | .cvt _ => 0x580#11

/-- The encoded word, under the table's mask, is the row's match. -/
def Statement (i : Instr) : Prop := encode i &&& 0x780#11 = matchOf i

/-- The mask keeps the four opcode bits and clears the count. -/
theorem masked (op : BitVec 4) (cnt : BitVec 7) :
    (op ++ cnt : CmdWord) &&& 0x780#11 = op ++ 0#7 := by
  have h : (0x780#11 : CmdWord) = (BitVec.allOnes 4) ++ 0#7 := by decide
  rw [h, BitVec.and_append, BitVec.and_allOnes, BitVec.and_zero]

theorem shl (cnt : Nat) : Statement (.shl cnt) := masked 0#4 (BitVec.ofNat 7 cnt)
theorem shr (cnt : Nat) : Statement (.shr cnt) := masked 1#4 (BitVec.ofNat 7 cnt)
theorem xor (cnt : Nat) : Statement (.xor cnt) := masked 2#4 (BitVec.ofNat 7 cnt)
theorem and (cnt : Nat) : Statement (.and cnt) := masked 3#4 (BitVec.ofNat 7 cnt)
theorem or (cnt : Nat) : Statement (.or cnt) := masked 4#4 (BitVec.ofNat 7 cnt)
theorem not (cnt : Nat) : Statement (.not cnt) := masked 5#4 (BitVec.ofNat 7 cnt)
theorem addb (cnt : Nat) : Statement (.addb cnt) := masked 6#4 (BitVec.ofNat 7 cnt)
theorem mulb (cnt : Nat) : Statement (.mulb cnt) := masked 7#4 (BitVec.ofNat 7 cnt)
theorem clone (cnt : Nat) : Statement (.clone cnt) := masked 8#4 (BitVec.ofNat 7 cnt)
theorem seed (cnt : Nat) : Statement (.seed cnt) := masked 9#4 (BitVec.ofNat 7 cnt)
theorem next (cnt : Nat) : Statement (.next cnt) := masked 10#4 (BitVec.ofNat 7 cnt)
theorem cvt (cnt : Nat) : Statement (.cvt cnt) := masked 11#4 (BitVec.ofNat 7 cnt)

end Sys2Proof.Laws.TableRow
end

