-- ==== Sys2Proof/Laws/Run.lean ====
section
/-! SUPPORT. Runs one request at a time, and where a run is judged. -/

namespace Sys2Proof.Machine

open Sys2Proof

/-- A run takes its first step and goes on from there. -/
theorem run_succ {s t : State} (h : step s = .next t) (k : Nat) :
    Host.Core.run Sys2Proof.core (k + 1) s = Host.Core.run Sys2Proof.core k t := by
  have hc : Sys2Proof.core.step s = .next t := h
  simp [Host.Core.run, hc]

theorem runResults_succ {s t : State} (h : step s = .next t) (k : Nat) :
    runResults (k + 1) s =
      (if s.pending.head?.any isCommand then t.result.toList else []) ++ runResults k t := by
  simp only [runResults, h]
  split <;> simp

theorem nextResults_succ {s t : State} (h : step s = .next t) (k : Nat) :
    nextResults (k + 1) s =
      (if s.pending.head?.any isNext then [t.result] else []) ++ nextResults k t := by
  simp only [nextResults, h]
  split <;> simp

/-- Resets at the end do not count. -/
theorem upToLastCommand_of_resets {rs : List Request} (h : ∀ r ∈ rs, r = .reset) : upToLastCommand rs = 0 := by
  induction rs with
  | nil => rfl
  | cons r rest ih =>
    have hr : r = .reset := h r (by simp)
    simp [upToLastCommand, ih fun q hq => h q (by simp [hq]), hr, isCommand]

/-- Up to the last command: what stands before it, and itself. -/
theorem upToLastCommand_append {c : Request} {rs : List Request} (hc : isCommand c = true)
    (h : ∀ r ∈ rs, r = .reset) (pre : List Request) :
    upToLastCommand (pre ++ c :: rs) = pre.length + 1 := by
  induction pre with
  | nil => simp [upToLastCommand, upToLastCommand_of_resets h, hc]
  | cons q pre ih => rw [List.cons_append, upToLastCommand, ih]; rfl

/-- A run is judged after its last command, whatever stands before it and however many resets follow. -/
theorem judgedAt_append {c : Request} {rs : List Request} (hc : isCommand c = true)
    (h : ∀ r ∈ rs, r = .reset) (pre : List Request) : judgedAt (pre ++ c :: rs) = pre.length + 1 := by
  rw [judgedAt, upToLastCommand_append hc h]

/-- A run of commands alone is judged at its end. -/
theorem upToLastCommand_of_commands {rs : List Request} (h : ∀ r ∈ rs, r ≠ .reset) :
    upToLastCommand rs = rs.length := by
  induction rs with
  | nil => rfl
  | cons r rest ih =>
    have hrest := ih fun q hq => h q (by simp [hq])
    have hr : isCommand r = true := by
      cases r with
      | reset => exact absurd rfl (h .reset (by simp))
      | command cmd a b => rfl
    cases rest with
    | nil => simp [upToLastCommand, hr]
    | cons q qs =>
      rw [upToLastCommand, hrest]
      rfl

theorem judgedAt_of_commands {rs : List Request} (h : ∀ r ∈ rs, r ≠ .reset) : judgedAt rs = rs.length := by
  unfold judgedAt
  rw [upToLastCommand_of_commands h]
  split <;> simp_all

/-- A run of commands alone has gone right exactly when it ends without a fault. -/
theorem goneRight_of_commands {s t : State} (h : ∀ r ∈ s.pending, r ≠ .reset) :
    GoneRight s t ↔
      Host.Core.run Sys2Proof.core s.pending.length s = .next t ∧ t.fault = false := by
  unfold GoneRight
  rw [judgedAt_of_commands h]
  constructor
  · rintro ⟨h1, u, h2, hu⟩
    rw [h1] at h2
    cases h2
    exact ⟨h1, hu⟩
  · rintro ⟨h1, ht⟩
    exact ⟨h1, t, h1, ht⟩

end Sys2Proof.Machine
end

