-- ==== Sys2Proof/Tests/Slice0.lean ====
section
/-! SUPPORT. The model's own tests. Expected values come from spec/95_test_vectors.md (section named beside each) or from
the worked examples of the rule files. Then one witness per statement of Sys2Proof/Certificates/Slice0/Obligations.lean
that has hypotheses. -/

namespace Sys2Proof.Tests

open Sys2Proof Sys2Proof.Machine

/-- `X`, `Y` of 95_test_vectors.md. -/
def wordX : Word := 0x0123456789ABCDEF#64
def wordY : Word := 0xFEDCBA9876543210#64
/-- The words of the second row of 95_test_vectors.md 2.2. -/
def wordP : Word := 0xF0F0F0F00F0F0F0F#64
def wordQ : Word := 0xFF00FF00AA55AA55#64

/-- A block without a fault, with given flag and state words, and operands on the ports. -/
def block (seeded : Bool) (w0 w1 a b : Word) : State :=
  { state0 := w0, state1 := w1, seeded := seeded, fault := false, fcause := 0#3, result := none,
    a := a, b := b, pending := [], epoch := 0 }

/-- An unseeded block with operands. -/
def operands (a b : Word) : State := block false 0#64 0#64 a b

/-- A block that took a fault. -/
def faulted : State := { block true 1#64 2#64 0#64 0#64 with fault := true, fcause := 1#3 }

/-- What one outcome shows on `result`. -/
def shown : Host.Outcome State Fault Refusal → Option Word
  | .next t => t.result
  | .fault _ => none
  | .refused _ => none

/-- What one outcome leaves in `fault` and `fcause`. -/
def causeOf : Host.Outcome State Fault Refusal → Option (Bool × BitVec 3)
  | .next t => some (t.fault, t.fcause)
  | .fault _ => none
  | .refused _ => none

/-- What one outcome leaves in the state words and `seeded`. -/
def wordsOf : Host.Outcome State Fault Refusal → Option (Word × Word × Bool)
  | .next t => some (t.state0, t.state1, t.seeded)
  | .fault _ => none
  | .refused _ => none

/-! ## WellFormed -/

theorem test_wellFormed_refuses_wide_count : ¬ (Instr.shl 128).WellFormed := by decide
theorem test_wellFormed_greatest_count : (Instr.shl 127).WellFormed := by decide

/-! ## Decoding: each opcode's bits written out from 30_encoding.md R60 and R62, then seven bits of count -/

theorem test_decode_shl : decode 0b00000010111#11 = .ok (.shl 23) := by decide
theorem test_decode_shr : decode 0b00010011010#11 = .ok (.shr 26) := by decide
theorem test_decode_xor : decode 0b00101010101#11 = .ok (.xor 85) := by decide
theorem test_decode_and : decode 0b00110000000#11 = .ok (.and 0) := by decide
theorem test_decode_or : decode 0b01000000000#11 = .ok (.or 0) := by decide
theorem test_decode_not : decode 0b01010000000#11 = .ok (.not 0) := by decide
theorem test_decode_addb : decode 0b01100000000#11 = .ok (.addb 0) := by decide
theorem test_decode_mulb : decode 0b01110000000#11 = .ok (.mulb 0) := by decide
theorem test_decode_clone : decode 0b10000000000#11 = .ok (.clone 0) := by decide
theorem test_decode_seed : decode 0b10010000000#11 = .ok (.seed 0) := by decide
theorem test_decode_next : decode 0b10101111111#11 = .ok (.next 127) := by decide
theorem test_decode_cvt : decode 0b10110000000#11 = .ok (.cvt 0) := by decide
theorem test_decode_reserved_least : decode 0x600#11 = .error (.reservedOpcode 12) := by decide
theorem test_decode_reserved_greatest : decode 0x7FF#11 = .error (.reservedOpcode 15) := by decide
theorem test_decodeTableWord : decodeTableWord 16 0x580 = some (.cvt 0) := by decide
theorem test_encode_shr : encode (.shr 17) = 0x091#11 := by decide

/-! ## Shifter (2.1 and 40_shifter.md) -/

theorem test_shl_byte_and_bit : shown (exec (.shl 9) (operands wordX 0#64)) = some 0x468ACF13579BDE00#64 := by
  decide
theorem test_shl_count_edges : causeOf (exec (.shl 72) (operands wordX 0#64)) = some (true, 2#3) ∧
    shown (exec (.shl 71) (operands wordX 0#64)) = some 0#64 := by decide
theorem test_shr_next_count : shown (exec (.shr 17) (operands wordX 0#64)) = some 0x00000091A2B3C4D5#64 := by
  decide
theorem test_shr_is_logical : shown (exec (.shr 63) (operands 0x8000000000000000#64 0#64)) = some 1#64 := by
  decide
theorem test_shl_stages : shlStages wordX 9 = 0x468ACF13579BDE00#64 := by decide
theorem test_shr_stages : shrStages wordX 17 = 0x00000091A2B3C4D5#64 := by decide

/-! ## ALU (2.2) -/

theorem test_xor : shown (exec (.xor 0) (operands wordP wordQ)) = some 0x0FF00FF0A55AA55A#64 := by decide
theorem test_and : shown (exec (.and 0) (operands wordP wordQ)) = some 0xF000F0000A050A05#64 := by decide
theorem test_or : shown (exec (.or 0) (operands wordP wordQ)) = some 0xFFF0FFF0AF5FAF5F#64 := by decide
theorem test_not : shown (exec (.not 0) (operands wordX wordQ)) = some wordY := by decide
theorem test_addb_drops_carry : shown (exec (.addb 0) (operands wordP wordQ)) = some 0xEFF0EFF0B964B964#64 := by
  decide
theorem test_addb_E10 : shown (exec (.addb 0) (operands 0xFF#64 0x01#64)) = some 0#64 := by decide
theorem test_mulb : shown (exec (.mulb 0) (operands wordX wordY)) = some 0xFE142228261C0AF0#64 := by decide
theorem test_mulb_wraps : shown (exec (.mulb 0) (operands 0x1010101010101010#64 0x1010101010101010#64)) =
    some 0#64 := by decide
theorem test_clone : shown (exec (.clone 0) (operands wordX wordY)) = some wordX := by decide

/-! ## Converter (2.3) -/

theorem test_cvt : shown (exec (.cvt 0) (operands 0x4A172DEDED651807#64 0#64)) = some 0x3FDCB7B7B594601C#64 := by
  decide
theorem test_cvt_edges : cvt 0xFFF0000000000000#64 = 0#64 ∧ cvt 0xFFFFFFFFFFFFFFFF#64 = 0x3FEFFFFFFFFFFFFE#64 := by
  decide
theorem test_raw : raw 0x4A172DEDED651807#64 = 0x3FF72DEDED651807#64 := by decide

/-! ## Generator (2.4) -/

theorem test_next_result : shown (exec (.next 0) (block true wordX wordY 0#64 0#64)) =
    some 0x3FDCB7B7B594601C#64 := by decide
theorem test_next_words : wordsOf (exec (.next 0) (block true wordX wordY 0#64 0#64)) =
    some (wordY, 0x4C3B73557711E6F7#64, true) := by decide
theorem test_seed : wordsOf (exec (.seed 0) (operands 1#64 2#64)) = some (1#64, 2#64, true) := by decide
theorem test_seed_twice : causeOf (exec (.seed 0) (block true 1#64 2#64 3#64 4#64)) = some (true, 5#3) := by
  decide

/-! ## Faults, reset and the step (2.5) -/

theorem test_next_after_reset : causeOf (step (State.reset.withFetchWord 16 0x500)) = some (true, 4#3) := by
  decide
theorem test_reserved_after_reset : causeOf (step (State.reset.withFetchWord 16 0x600)) = some (true, 3#3) := by
  decide
theorem test_first_cause_kept : causeOf (exec (.shr 72) faulted) = some (true, 1#3) := by decide
theorem test_reset_clears : causeOf (step { faulted with pending := [.reset] }) = some (false, 0#3) := by decide
theorem test_status : faulted.status = 0b00111#5 := by decide

/-! ## Words and listings -/

theorem test_hex : wordOfHex "FEDCBA9876543210".toList = some wordY := by decide
theorem test_hex_short : wordOfHex "FEDC".toList = none := by decide
theorem test_line : (Line.shr (.prior 2) 17).request [some 0#64, some 0xB2E790817E2BCDEF#64] =
    some (.command 0x091#11 0xB2E790817E2BCDEF#64 0#64) := by decide
theorem test_hexOf : hexOf wordY = "FEDCBA9876543210".toList := by decide

/-! ## Witnesses: a concrete state and operands that meet the hypotheses of each statement -/

/-- A seeded block to which the host presents one command and then one more. -/
def presented (cmd : CmdWord) : State :=
  { block true wordX wordY 0#64 0#64 with pending := [.command cmd wordX wordY, .reset] }

theorem witness_ResetRequestClearsEveryFlag :
    { faulted with pending := [.reset] }.pending = .reset :: [] := rfl

theorem witness_StepRunsThePresentedCommand :
    (presented 0x100#11).pending = .command 0x100#11 wordX wordY :: [.reset] ∧
      decode 0x100#11 = .ok (.xor 0) := by decide

theorem witness_StepFollowsTheOpcodeMap :
    (presented 0x5FF#11).pending = .command 0x5FF#11 wordX wordY :: [.reset] ∧
      (presented 0x600#11).pending = .command 0x600#11 wordX wordY :: [.reset] := ⟨rfl, rfl⟩

theorem witness_IdleStepHoldsTheState : (operands wordX wordY).pending = [] := rfl

theorem witness_ReservedOpcodeFaults :
    (presented 0x600#11).pending = .command 0x600#11 wordX wordY :: [.reset] ∧
      (presented 0x600#11).fault = false ∧ 0x600 ≤ (0x600#11).toNat ∧ 0x600 ≤ (0x7FF#11).toNat := by decide

/-- First clause: sixteen zeros; third clause: too short, and a character that is no digit. -/
theorem witness_SixteenHexDigitsFormAWord :
    (List.replicate 16 '0').length = 16 ∧
      (∀ j, j < 16 → ((List.replicate 16 '0')[j]?).bind hexVal = some 0) ∧
      ("FEDC".toList.length ≠ 16) ∧ (∃ c ∈ ['G'], hexVal c = none) :=
  ⟨rfl, fun j hj => by interval_cases j <;> rfl, by decide, 'G', by simp, by decide⟩

theorem witness_IntegersBelowTwoTo64FormWords :
    2 ^ 64 - 1 < 2 ^ 64 ∧ 2 ^ 64 ≤ 2 ^ 64 := by decide

theorem witness_DecodeOfEncodeIsTheCommand :
    (Instr.shl 0).WellFormed ∧ (Instr.cvt 127).WellFormed := by decide

theorem witness_EncodeOfDecodeIsTheWord :
    decode 0x000#11 = .ok (.shl 0) ∧ decode 0x5FF#11 = .ok (.cvt 127) := by decide

theorem witness_CountIsIgnoredOutsideShifts :
    (formatOf (.xor 0)).readsCnt = false ∧ opcode (.xor 0) = opcode (.xor 127) := by decide

theorem witness_UnreadPortsDoNotMatter :
    (formatOf (.next 0)).readsA = false ∧ (formatOf (.not 0)).readsB = false := by decide

/-- A literal and `$n` as operands, the greatest count and the least that gives no request, an operand without a value, and
a line that stands for a command. -/
theorem witness_AssembledLinesAreCanonicalCommands :
    ([some wordY] : List (Option Word))[0]? = some (some wordY) ∧
      (Operand.word wordX).value [] = some wordX ∧ (Operand.prior 1).value [some wordY] = some wordY ∧
      127 < 128 ∧ 128 ≤ 128 ∧ (Operand.prior 1).value [none] = none ∧
      (Line.xor (.word wordX) (.prior 1)).request [some wordY] = some (.command 0x100#11 wordX wordY) := by decide

/-- Least and greatest legal count, and a count of the last clause. -/
theorem witness_ShlReturnsTheLogicalLeftShift :
    (operands wordX 0#64).fault = false ∧ 1 ≤ 1 ∧ 1 ≤ 71 ∧ 64 ≤ 64 ∧ 64 ≤ 71 ∧ 71 ≤ 71 := by decide

theorem witness_ShrReturnsTheLogicalRightShift :
    (operands wordY 0#64).fault = false ∧ 1 ≤ 1 ∧ 1 ≤ 71 ∧ 64 ≤ 64 ∧ 64 ≤ 71 ∧ 71 ≤ 71 := by decide

theorem witness_ShiftCountZeroFaults : (operands wordX 0#64).fault = false := rfl

theorem witness_ShiftCountTooWideFaults :
    (operands wordX 0#64).fault = false ∧ 72 ≤ 72 ∧ 72 ≤ 127 ∧ 64 ≤ 64 ∧ 64 ≤ 71 ∧ 71 ≤ 71 := by decide

theorem witness_ShifterStagesGiveTheShift : 1 ≤ 1 ∧ 1 ≤ 71 ∧ 64 ≤ 64 ∧ 64 ≤ 71 ∧ 71 ≤ 71 := by decide

theorem witness_WholeByteShiftsMoveBytes : 64 / 8 = 8 ∧ 71 / 8 = 8 := by decide

theorem witness_XorReturnsTheExclusiveOr :
    (operands wordX wordX).fault = false ∧ (operands wordX wordX).a = (operands wordX wordX).b ∧
      (operands wordX 0#64).b = 0#64 ∧ (operands wordX (~~~0#64)).b = 0xFFFFFFFFFFFFFFFF#64 := by decide

theorem witness_AndReturnsTheConjunction :
    (operands wordX (~~~0#64)).fault = false ∧ (operands wordX (~~~0#64)).b = 0xFFFFFFFFFFFFFFFF#64 ∧
      (operands wordX 0#64).b = 0#64 ∧ (operands wordX wordX).a = (operands wordX wordX).b := by decide

theorem witness_OrReturnsTheDisjunction :
    (operands wordX 0#64).fault = false ∧ (operands wordX 0#64).b = 0#64 ∧
      (operands wordX (~~~0#64)).b = 0xFFFFFFFFFFFFFFFF#64 ∧
      (operands wordX wordX).a = (operands wordX wordX).b := by decide

theorem witness_NotReturnsTheComplement : (operands wordX 0#64).fault = false := rfl

theorem witness_AddbAddsEachLaneAlone :
    (operands 0xFF#64 0x01#64).fault = false ∧
      ((operands 0xFF#64 0x01#64).a = 0x00000000000000FF#64 ∧
        (operands 0xFF#64 0x01#64).b = 0x0000000000000001#64) ∧
      ((operands (~~~0#64) (~~~0#64)).a = 0xFFFFFFFFFFFFFFFF#64 ∧
        (operands (~~~0#64) (~~~0#64)).b = 0xFFFFFFFFFFFFFFFF#64) ∧
      (operands wordX 0#64).b = 0#64 ∧
      ∀ i, i < 8 → (byte (operands wordX wordY).a i).toNat + (byte (operands wordX wordY).b i).toNat < 256 := by
  decide

theorem witness_MulbMultipliesEachLaneAlone :
    (operands wordX 0x0101010101010101#64).fault = false ∧
      (operands wordX 0x0101010101010101#64).b = 0x0101010101010101#64 ∧
      (operands wordX 0#64).b = 0#64 ∧
      ((operands (~~~0#64) (~~~0#64)).a = 0xFFFFFFFFFFFFFFFF#64 ∧
        (operands (~~~0#64) (~~~0#64)).b = 0xFFFFFFFFFFFFFFFF#64) := by decide

/-- A pair with no overflow in lanes 1 to 7, and one that overflows in lane 7 and in lane 1. -/
theorem witness_ByteLaneLaws :
    (∀ i, i < 8 → 1 ≤ i → (byte wordX i).toNat + (byte wordY i).toNat < 256) ∧
      256 ≤ (byte 0xFF#64 7).toNat + (byte 0x01#64 7).toNat ∧
      256 ≤ (byte 0x00FF000000000000#64 1).toNat + (byte 0x0001000000000000#64 1).toNat := by decide

theorem witness_CloneReturnsItsOperand : (operands wordX 0#64).fault = false := rfl

theorem witness_SeedLoadsTheStateWordsOnce :
    (operands 1#64 2#64).fault = false ∧ (operands 1#64 2#64).seeded = false ∧
      (block true 1#64 2#64 3#64 4#64).fault = false ∧ (block true 1#64 2#64 3#64 4#64).seeded = true := by decide

theorem witness_NextUnseededFaults :
    (operands 0#64 0#64).fault = false ∧ (operands 0#64 0#64).seeded = false := by decide

theorem witness_NextFollowsTheClosedForm :
    (block true wordX wordY 0#64 0#64).fault = false ∧ (block true wordX wordY 0#64 0#64).seeded = true := by decide

theorem witness_NextAgreesWithTheEightSteps :
    (block true 1#64 2#64 0#64 0#64).fault = false ∧ (block true 1#64 2#64 0#64 0#64).seeded = true := by decide

theorem witness_AllZeroSeedIsAFixedPoint :
    ((operands 0#64 0#64).fault = false ∧ (operands 0#64 0#64).seeded = false ∧
      (operands 0#64 0#64).a = 0#64 ∧ (operands 0#64 0#64).b = 0#64) ∧
    ((block true 0#64 0#64 wordX wordY).fault = false ∧ (block true 0#64 0#64 wordX wordY).seeded = true ∧
      (block true 0#64 0#64 wordX wordY).state0 = 0#64 ∧ (block true 0#64 0#64 wordX wordY).state1 = 0#64) := by
  decide

theorem witness_NextReturnsADoubleInTheUnitInterval :
    (block true 0#64 1#64 0#64 0#64).fault = false ∧ (block true 0#64 1#64 0#64 0#64).seeded = true := by decide

/-- The first two calls of P1, with an XOR between them. -/
def streamStart : State :=
  { block true 1#64 2#64 0#64 0#64 with
    pending := [.command 0x500#11 0#64 0#64, .command 0x100#11 wordX wordY, .command 0x500#11 wordX 0#64] }

/-- Where it ends (95_test_vectors.md 3.2, command 3). -/
def streamEnd : State :=
  { block true 0x0000000000800043#64 0x00000000018000C1#64 wordX 0#64 with
    result := some 0x3E30000040000000#64 }

theorem witness_StreamDependsOnTheSeedAndTheCallCount :
    streamStart.seeded = true ∧ (∀ r ∈ streamStart.pending, r ≠ .reset) ∧ GoneRight streamStart streamEnd :=
  ⟨rfl, by decide, rfl, streamEnd, rfl, rfl⟩

/-- The second clause, at the least and the greatest legal count and at the greatest opcode. -/
theorem witness_StreamDependsOnTheSeedAndTheCallCount_right :
    let s := { block true 1#64 2#64 0#64 0#64 with
      pending := [.command 0x001#11 wordX 0#64, .command 0x0C7#11 wordX 0#64, .command 0x5FF#11 wordX 0#64] }
    s.seeded = true ∧ s.fault = false ∧
      ∀ r ∈ s.pending, ∃ (cmd : CmdWord) (a b : Word), r = .command cmd a b ∧
        cmd.toNat / 128 ≤ 11 ∧ cmd.toNat / 128 ≠ 9 ∧
        (cmd.toNat / 128 ≤ 1 → 1 ≤ cmd.toNat % 128 ∧ cmd.toNat % 128 ≤ 71) := by
  refine ⟨rfl, rfl, fun r hr => ?_⟩
  simp only [List.mem_cons, List.not_mem_nil, or_false] at hr
  rcases hr with rfl | rfl | rfl <;> exact ⟨_, _, _, rfl, by decide⟩

/-- What the host sees of that run: three values, and the flags (95_test_vectors.md 3.2 and 2.2). -/
theorem test_runOutcome : runOutcome streamStart =
    some ⟨[0x3E200008A0000000#64, 0xFFFFFFFFFFFFFFFF#64, 0x3E30000040000000#64], true, false, 0#3⟩ := by decide

/-- SEED shows no value and a first NEXT of an unseeded block none either (95_test_vectors.md 3.5). -/
theorem test_runOutcome_fault :
    runOutcome { operands 0#64 0#64 with pending := [.command 0x500#11 0#64 0#64, .command 0x480#11 1#64 2#64] } =
      some ⟨[], false, true, 4#3⟩ := by decide

theorem test_judgedAt_last_command :
    judgedAt [.command 0x000#11 wordX 0#64, .reset, .reset] = 1 ∧ judgedAt [.reset] = 1 := by decide

theorem witness_CvtReturnsTheConversion :
    (operands 1#64 0#64).fault = false ∧
      (operands 0xFFF0000000000000#64 0#64).a.toNat % 2 ^ 52 = 0 ∧
      (operands (~~~0#64) 0#64).a.toNat % 2 ^ 52 = 2 ^ 52 - 1 ∧
      (operands 1#64 0#64).a = 0x0000000000000001#64 ∧
      (operands 0x0008000000000000#64 0#64).a = 0x0008000000000000#64 ∧
      (0x8000000000000001#64).toNat % 2 ^ 52 = (operands 1#64 0#64).a.toNat % 2 ^ 52 := by decide

theorem witness_ConverterResultsAreNormalOrZero : 0 ≤ 2 ^ 52 - 1 ∧ 2 ^ 52 - 1 ≤ 2 ^ 52 - 1 := by decide

theorem witness_ConverterReadsExactlyTheLowLanes :
    (∀ i, i < 8 → 2 ≤ i → byte wordX i = byte (wordX ||| 0xFFF0000000000000#64) i) ∧
      (byte wordX 1).toNat % 16 = (byte (wordX ||| 0xFFF0000000000000#64) 1).toNat % 16 := by decide

theorem witness_TakingAFaultChangesOnlyTheFaultFlags :
    (presented 0x000#11).pending = .command 0x000#11 wordX wordY :: [.reset] ∧
      (presented 0x000#11).fault = false ∧
      step (presented 0x000#11) =
        .next (((presented 0x000#11).present wordX wordY [.reset]).raiseFault .shiftCountZero) ∧
      (((presented 0x000#11).present wordX wordY [.reset]).raiseFault .shiftCountZero).fault = true :=
  ⟨rfl, rfl, rfl, rfl⟩

/-- Code 0: XOR. Codes 1, 2, 3, 5: a count of 0, of 72, of 127, the least reserved word, and a SEED, presented to a seeded
block. Code 4: a NEXT presented to an unseeded one. -/
theorem witness_FaultCausesAreExactlyThoseListed :
    (presented 0x100#11).pending = .command 0x100#11 wordX wordY :: [.reset] ∧
      (presented 0x100#11).fault = false ∧ (presented 0x100#11).Inv ∧
      decode 0x080#11 = .ok (.shr 0) ∧ decode 0x048#11 = .ok (.shl 72) ∧ decode 0x0FF#11 = .ok (.shr 127) ∧
      0x600 ≤ (0x600#11).toNat ∧
      (presented 0x480#11).seeded = true ∧ decode 0x480#11 = .ok (.seed 0) ∧
      (operands 0#64 0#64).seeded = false ∧ (operands 0#64 0#64).Inv ∧ decode 0x500#11 = .ok (.next 0) := by
  decide

theorem witness_FaultedBlockIgnoresCommands :
    { faulted with pending := [.command 0x600#11 wordX wordY] }.fault = true ∧
      { faulted with pending := [.command 0x600#11 wordX wordY] }.pending =
        .command 0x600#11 wordX wordY :: [] := by decide

theorem witness_OnlyResetLeavesTheFault :
    step { faulted with pending := [.reset] } = .next faulted.applyReset ∧ faulted.fault = true ∧
      faulted.applyReset.fault = false := ⟨rfl, rfl, rfl⟩

/-- First clause: a reset of a seeded block; second clause: a SEED of an unseeded one. -/
theorem witness_SeededChangesOnlyBySeedAndReset :
    (step { block true 1#64 2#64 0#64 0#64 with pending := [.reset] } =
        .next (block true 1#64 2#64 0#64 0#64).applyReset ∧
      (block true 1#64 2#64 0#64 0#64).applyReset.seeded = false) ∧
    (step { operands 0#64 0#64 with pending := [.command 0x480#11 1#64 2#64] } =
        .next ((operands 1#64 2#64).loadSeed 1#64 2#64) ∧
      (operands 0#64 0#64).seeded = false ∧ ((operands 1#64 2#64).loadSeed 1#64 2#64).seeded = true) :=
  ⟨⟨rfl, rfl⟩, rfl, rfl, rfl⟩

theorem witness_OnlySeedAndNextWriteTheStateWords :
    exec (.clone 0) (operands wordX wordY) = .next ((operands wordX wordY).returnWord wordX) ∧
      (∀ n, Instr.clone 0 ≠ .seed n) ∧ (∀ n, Instr.clone 0 ≠ .next n) := by
  refine ⟨rfl, ?_, ?_⟩ <;> intro n h <;> cases h

theorem witness_OnlyNextRevealsTheStateWords : ∀ n, Instr.cvt 0 ≠ .next n := by
  intro n h; cases h

theorem witness_PureCommandsRepeat :
    (∀ n, Instr.not 0 ≠ .seed n) ∧ (∀ n, Instr.not 0 ≠ .next n) ∧
      exec (.not 0) (operands wordX 0#64) = .next ((operands wordX 0#64).returnWord (~~~wordX)) := by
  refine ⟨?_, ?_, rfl⟩ <;> intro n h <;> cases h

theorem witness_EveryStepKeepsTheFlagRelations :
    { faulted with pending := [.command 0x100#11 wordX wordY] }.Inv ∧
      step { faulted with pending := [.command 0x100#11 wordX wordY] } =
        .next { faulted with a := wordX, b := wordY } := ⟨by decide, rfl⟩

/-- SHL by 1 and by 71, SEED of an unseeded block, NEXT of a seeded one. -/
theorem witness_CommandsSucceedWhenTheirCheckPasses :
    (operands wordX 0#64).fault = false ∧
      (∀ n, Instr.shl 1 = .shl n ∨ Instr.shl 1 = .shr n → 1 ≤ n ∧ n ≤ 71) ∧
      (∀ n, Instr.shr 71 = .shl n ∨ Instr.shr 71 = .shr n → 1 ≤ n ∧ n ≤ 71) ∧
      (∀ n, Instr.seed 0 = .seed n → (operands wordX 0#64).seeded = false) ∧
      (∀ n, Instr.next 0 = .next n → (block true 1#64 2#64 0#64 0#64).seeded = true) := by
  refine ⟨rfl, ?_, ?_, fun _ _ => rfl, fun _ _ => rfl⟩ <;> intro n h <;> rcases h with h | h <;> cases h <;> decide

/-- A faulted block and a fresh one, with the same requests. -/
theorem witness_RunOutcomeDependsOnlyOnTheRequests :
    { faulted with pending := [.reset, .command 0x500#11 0#64 0#64] }.pending =
        .reset :: [.command 0x500#11 0#64 0#64] ∧
      { operands wordX wordY with pending := [.reset, .command 0x500#11 0#64 0#64] }.pending =
        .reset :: [.command 0x500#11 0#64 0#64] := ⟨rfl, rfl⟩

/-- SEED of a fresh block, then SHL by 0 (R165: a fault), then a reset. -/
theorem witness_ResetsAfterAFaultDoNotMakeARunRight :
    let s : State := { operands wordX wordY with
      pending := [.command 0x480#11 wordX wordY, .command 0x000#11 wordX wordY, .reset] }
    let seeded : State :=
      { s with pending := [.command 0x000#11 wordX wordY, .reset], state0 := wordX, state1 := wordY, seeded := true }
    let u : State := (seeded.present wordX wordY [.reset]).raiseFault .shiftCountZero
    s.pending = [.command 0x480#11 wordX wordY] ++ .command 0x000#11 wordX wordY :: [.reset] ∧
      (∀ r ∈ [Request.reset], r = .reset) ∧
      Host.Core.run Sys2Proof.core ([Request.command 0x480#11 wordX wordY].length + 1) s = .next u ∧
      u.fault = true :=
  ⟨rfl, by decide, rfl, rfl⟩

end Sys2Proof.Tests
end

section
/-! PROOF. What one command and one step can do, said once: the check of each command beside the effect it has when the
check passes, and an inversion lemma each for `exec` and `step`. -/

namespace Sys2Proof.Machine

open Sys2Proof

/-- The precondition each command violates, if any (R80, R163, R164; R169 for the others). -/
def violationOf (i : Instr) (seeded : Bool) : Option Cause :=
  match i with
  | .shl cnt | .shr cnt => checkCount cnt
  | .seed _ => if seeded then some .reseed else none
  | .next _ => if seeded then none else some .notSeeded
  | _ => none

/-- What each command does once it is live and its check has passed (R169). -/
def effectOf (i : Instr) (s : State) : State :=
  match i with
  | .shl cnt => s.returnWord (shl64 s.a cnt)
  | .shr cnt => s.returnWord (shr64 s.a cnt)
  | .xor _ => s.returnWord (s.a ^^^ s.b)
  | .and _ => s.returnWord (s.a &&& s.b)
  | .or _ => s.returnWord (s.a ||| s.b)
  | .not _ => s.returnWord (~~~s.a)
  | .addb _ => s.returnWord (addb s.a s.b)
  | .mulb _ => s.returnWord (mulb s.a s.b)
  | .clone _ => s.returnWord s.a
  | .seed _ => s.loadSeed s.a s.b
  | .next _ =>
    let new := advance s.state0 s.state1
    (s.writeWords new.1 new.2).returnWord (outputOf new.1 new.2)
  | .cvt _ => s.returnWord (cvt s.a)

/-- Every command is its check before its effect, unless the block is faulted. -/
theorem exec_eq_whenLive (i : Instr) (s : State) :
    exec i s = whenLive s (checked (violationOf i s.seeded) (effectOf i)) := by
  cases hf : s.fault with
  | true => rw [exec_of_faulted hf, whenLive_of_faulted hf]
  | false =>
    rw [whenLive_of_live hf]
    cases i with
    | shl cnt => exact execShl_of_live cnt hf
    | shr cnt => exact execShr_of_live cnt hf
    | xor cnt => exact execXor_of_live cnt hf
    | and cnt => exact execAnd_of_live cnt hf
    | or cnt => exact execOr_of_live cnt hf
    | not cnt => exact execNot_of_live cnt hf
    | addb cnt => exact execAddb_of_live cnt hf
    | mulb cnt => exact execMulb_of_live cnt hf
    | clone cnt => exact execClone_of_live cnt hf
    | seed cnt => exact whenLive_of_live hf _
    | next cnt => exact whenLive_of_live hf _
    | cvt cnt => exact execCvt_of_live cnt hf

/-- Everything a command can do: nothing in a faulted block, the fault its check names, or its effect. -/
theorem exec_next_cases {i : Instr} {s t : State} (h : exec i s = .next t) :
    (s.fault = true ∧ t = s.noValue) ∨
      (s.fault = false ∧ ∃ c, violationOf i s.seeded = some c ∧ t = s.raiseFault c) ∨
      (s.fault = false ∧ violationOf i s.seeded = none ∧ t = effectOf i s) := by
  rw [exec_eq_whenLive] at h
  obtain hfaulted | ⟨hlive, rfl⟩ := whenLive_next h
  · exact .inl hfaulted
  · obtain ⟨c, hc, he⟩ | ⟨hn, he⟩ := checked_cases (violationOf i s.seeded) (effectOf i) s
    · exact .inr (.inl ⟨hlive, c, hc, he⟩)
    · exact .inr (.inr ⟨hlive, hn, he⟩)

/-- A reserved command word does nothing in a faulted block, and otherwise takes the fault RESERVED_OPCODE. -/
theorem takeReserved_next_cases {s t : State} (h : takeReserved s = .next t) :
    (s.fault = true ∧ t = s.noValue) ∨ (s.fault = false ∧ t = s.raiseFault .reservedOpcode) :=
  whenLive_next h

/-- A count check names one of the two count violations. -/
theorem checkCount_eq_some {cnt : Nat} {c : Cause} (h : checkCount cnt = some c) :
    c = .shiftCountZero ∨ c = .shiftCountTooWide := by
  unfold checkCount at h
  split at h
  · exact .inl (Option.some.inj h).symm
  · split at h
    · exact .inr (Option.some.inj h).symm
    · cases h

/-- NOT_SEEDED is found only unseeded, and RESEED only seeded. -/
theorem violationOf_fits_seeded {i : Instr} {seeded : Bool} {c : Cause} (h : violationOf i seeded = some c) :
    (c = .notSeeded → seeded = false) ∧ (c = .reseed → seeded = true) := by
  cases i with
  | shl cnt | shr cnt => obtain rfl | rfl := checkCount_eq_some h <;> exact ⟨nofun, nofun⟩
  | seed _ | next _ =>
    cases seeded <;> cases h
    decide
  | _ => cases h

@[simp] theorem effectOf_fault (i : Instr) (s : State) : (effectOf i s).fault = s.fault := by
  cases i <;> rfl

@[simp] theorem effectOf_fcause (i : Instr) (s : State) : (effectOf i s).fcause = s.fcause := by
  cases i <;> rfl

/-- Every command but SEED keeps `seeded`. -/
theorem effectOf_seeded {i : Instr} (hseed : ∀ n, i ≠ .seed n) (s : State) :
    (effectOf i s).seeded = s.seeded := by
  cases i with
  | seed n => exact absurd rfl (hseed n)
  | _ => rfl

/-- A command that is neither SEED nor NEXT does one thing: it returns a function of the two operand ports. -/
theorem effectOf_pure {i : Instr} (hseed : ∀ n, i ≠ .seed n) (hnext : ∀ n, i ≠ .next n) :
    ∃ f : Word → Word → Word, ∀ s, effectOf i s = s.returnWord (f s.a s.b) := by
  cases i with
  | shl cnt => exact ⟨fun a _ => shl64 a cnt, fun _ => rfl⟩
  | shr cnt => exact ⟨fun a _ => shr64 a cnt, fun _ => rfl⟩
  | xor _ => exact ⟨fun a b => a ^^^ b, fun _ => rfl⟩
  | and _ => exact ⟨fun a b => a &&& b, fun _ => rfl⟩
  | or _ => exact ⟨fun a b => a ||| b, fun _ => rfl⟩
  | not _ => exact ⟨fun a _ => ~~~a, fun _ => rfl⟩
  | addb _ => exact ⟨addb, fun _ => rfl⟩
  | mulb _ => exact ⟨mulb, fun _ => rfl⟩
  | clone _ => exact ⟨fun a _ => a, fun _ => rfl⟩
  | seed n => exact absurd rfl (hseed n)
  | next n => exact absurd rfl (hnext n)
  | cvt _ => exact ⟨fun a _ => cvt a, fun _ => rfl⟩

theorem step_of_idle {s : State} (h : s.pending = []) : step s = .next s := by
  simp [step, h]

theorem step_of_reset {s : State} {rest : List Request} (h : s.pending = .reset :: rest) :
    step s = .next { s with pending := rest }.applyReset := by
  simp [step, h]

theorem step_of_command {s : State} {cmd : CmdWord} {a b : Word} {rest : List Request}
    (h : s.pending = .command cmd a b :: rest) : step s = perform cmd (s.present a b rest) := by
  simp [step, h]

/-- Everything a step can do: nothing, a reset, a decoded command, or a reserved command word. -/
theorem step_next_cases {s t : State} (h : step s = .next t) :
    (s.pending = [] ∧ t = s) ∨
      (∃ rest, s.pending = .reset :: rest ∧ t = { s with pending := rest }.applyReset) ∨
      (∃ cmd a b rest i, s.pending = .command cmd a b :: rest ∧ decode cmd = .ok i ∧
        exec i (s.present a b rest) = .next t) ∨
      (∃ cmd a b rest e, s.pending = .command cmd a b :: rest ∧ decode cmd = .error e ∧
        takeReserved (s.present a b rest) = .next t) := by
  match hp : s.pending with
  | [] =>
    rw [step_of_idle hp] at h
    cases h
    exact .inl ⟨rfl, rfl⟩
  | .reset :: rest =>
    rw [step_of_reset hp] at h
    cases h
    exact .inr (.inl ⟨rest, rfl, rfl⟩)
  | .command cmd a b :: rest =>
    rw [step_of_command hp] at h
    match hd : decode cmd with
    | .ok i =>
      rw [perform_of_decode_ok hd] at h
      exact .inr (.inr (.inl ⟨cmd, a, b, rest, i, rfl, hd, h⟩))
    | .error e =>
      rw [perform_of_decode_error hd] at h
      exact .inr (.inr (.inr ⟨cmd, a, b, rest, e, rfl, hd, h⟩))

end Sys2Proof.Machine
end

section
/-! PROOF. The invariant of the flags: one lemma per operation on the state, then reset and the step. -/

namespace Sys2Proof.Machine

open Sys2Proof

/-- Without a fault the invariant says one thing. -/
theorem State.inv_iff_of_live {s : State} (h : s.fault = false) : s.Inv ↔ s.fcause = 0#3 := by
  constructor
  · rintro ⟨hclear, -⟩
    exact hclear h
  · intro hc
    simp [State.Inv, h, hc]

/-- Taking a fault gives the invariant whatever held before, when the cause fits `seeded`. -/
theorem State.inv_raiseFault {s : State} {c : Cause} (hnot : c = .notSeeded → s.seeded = false)
    (hre : c = .reseed → s.seeded = true) : (s.raiseFault c).Inv := by
  cases c <;> simp_all [State.Inv, Cause.code]

theorem State.Inv.noValue {s : State} (h : s.Inv) : s.noValue.Inv := by
  obtain ⟨hclear, hset, hseeded⟩ := h
  exact ⟨hclear, fun hf => ⟨(hset hf).1, (hset hf).2.1, rfl⟩, hseeded⟩

/-- The operand ports and the later requests are no part of the invariant. -/
theorem State.Inv.present {s : State} (h : s.Inv) (a b : Word) (rest : List Request) :
    (s.present a b rest).Inv := h

theorem State.inv_reset : State.reset.Inv := (State.inv_iff_of_live rfl).2 rfl

theorem State.inv_applyReset (s : State) : s.applyReset.Inv := (State.inv_iff_of_live rfl).2 rfl

/-- An effect leaves `fault` and `fcause` alone, which in a live block is all the invariant speaks of. -/
theorem effectOf_keeps_inv {s : State} (hlive : s.fault = false) (h : s.Inv) (i : Instr) :
    (effectOf i s).Inv := by
  rw [State.inv_iff_of_live (by simpa using hlive), effectOf_fcause]
  exact (State.inv_iff_of_live hlive).1 h

theorem exec_keeps_inv {i : Instr} {s t : State} (h : s.Inv) (he : exec i s = .next t) : t.Inv := by
  obtain ⟨-, rfl⟩ | ⟨-, c, hc, rfl⟩ | ⟨hlive, -, rfl⟩ := exec_next_cases he
  · exact h.noValue
  · obtain ⟨hnot, hre⟩ := violationOf_fits_seeded hc
    exact State.inv_raiseFault hnot hre
  · exact effectOf_keeps_inv hlive h i

theorem takeReserved_keeps_inv {s t : State} (h : s.Inv) (he : takeReserved s = .next t) : t.Inv := by
  obtain ⟨-, rfl⟩ | ⟨-, rfl⟩ := takeReserved_next_cases he
  · exact h.noValue
  · exact State.inv_raiseFault nofun nofun

theorem step_keeps_inv {s t : State} (h : s.Inv) (hstep : step s = .next t) : t.Inv := by
  obtain ⟨-, rfl⟩ | ⟨rest, -, rfl⟩ | ⟨cmd, a, b, rest, i, -, -, he⟩ | ⟨cmd, a, b, rest, e, -, -, he⟩ :=
    step_next_cases hstep
  · exact h
  · exact State.inv_applyReset _
  · exact exec_keeps_inv (h.present a b rest) he
  · exact takeReserved_keeps_inv (h.present a b rest) he

/-- Settles O54, by the four things a step can do. -/
theorem everyStepKeepsTheFlagRelations : Obligations.EveryStepKeepsTheFlagRelations :=
  fun _ _ => step_keeps_inv

/-- Settles O53: reset leaves a block without a fault and with cause 0. -/
theorem resetSatisfiesTheFlagRelations : Obligations.ResetSatisfiesTheFlagRelations := State.inv_reset

end Sys2Proof.Machine
end

section
/-! PROOF. Who writes `seeded` and the state words, and who reads the words. -/

namespace Sys2Proof.Machine

open Sys2Proof

/-- A command keeps `seeded`, or it is a SEED and loads its operands. -/
theorem exec_seeded_cases {i : Instr} {s t : State} (h : exec i s = .next t) :
    t.seeded = s.seeded ∨ ∃ n, i = .seed n ∧ t = s.loadSeed s.a s.b := by
  obtain ⟨-, rfl⟩ | ⟨-, c, -, rfl⟩ | ⟨-, -, rfl⟩ := exec_next_cases h
  · exact .inl rfl
  · exact .inl rfl
  · by_cases hseed : ∃ n, i = .seed n
    · obtain ⟨n, rfl⟩ := hseed
      exact .inr ⟨n, rfl, rfl⟩
    · exact .inl (effectOf_seeded (not_exists.1 hseed) s)

theorem takeReserved_seeded {s t : State} (h : takeReserved s = .next t) : t.seeded = s.seeded := by
  obtain ⟨-, rfl⟩ | ⟨-, rfl⟩ := takeReserved_next_cases h <;> rfl

/-- A step keeps `seeded`, or it took a reset, or it took a SEED that loaded its operands. -/
theorem step_seeded_cases {s t : State} (h : step s = .next t) :
    t.seeded = s.seeded ∨
      ((∃ rest, s.pending = .reset :: rest) ∧ t.seeded = false) ∨
      ((∃ cmd a b rest n, s.pending = .command cmd a b :: rest ∧ decode cmd = .ok (.seed n) ∧
        t.state0 = a ∧ t.state1 = b) ∧ t.seeded = true) := by
  obtain ⟨-, rfl⟩ | ⟨rest, hp, rfl⟩ | ⟨cmd, a, b, rest, i, hp, hd, he⟩ | ⟨cmd, a, b, rest, e, -, -, he⟩ :=
    step_next_cases h
  · exact .inl rfl
  · exact .inr (.inl ⟨⟨rest, hp⟩, rfl⟩)
  · obtain hkept | ⟨n, rfl, rfl⟩ := exec_seeded_cases he
    · exact .inl hkept
    · exact .inr (.inr ⟨⟨cmd, a, b, rest, n, hp, hd, rfl, rfl⟩, rfl⟩)
  · exact .inl (by simpa using takeReserved_seeded he)

/-- Settles O48: of the three things a step can do to `seeded`, one clears it and one sets it. -/
theorem seededChangesOnlyBySeedAndReset : Obligations.SeededChangesOnlyBySeedAndReset := by
  intro s t h
  obtain hkept | ⟨hreset, hclear⟩ | ⟨hseed, hset⟩ := step_seeded_cases h
  · simp_all
  · exact ⟨fun _ _ => hreset, by simp [hclear]⟩
  · exact ⟨by simp [hset], fun _ _ => hseed⟩

/-- Settles O49: such a command writes the flags `fault` and `fcause` or the port `result`, and nothing else. -/
theorem onlySeedAndNextWriteTheStateWords : Obligations.OnlySeedAndNextWriteTheStateWords := by
  intro i s t h hseed hnext
  obtain ⟨-, rfl⟩ | ⟨-, c, -, rfl⟩ | ⟨-, -, rfl⟩ := exec_next_cases h
  · exact ⟨rfl, rfl, rfl⟩
  · exact ⟨rfl, rfl, rfl⟩
  · obtain ⟨f, hf⟩ := effectOf_pure hseed hnext
    simp [hf]

/-- Replacing the state words before the effect of a command other than NEXT shows afterwards in the state words only:
a SEED overwrites them, and the others do not read them. -/
theorem effectOf_writeWords {i : Instr} (hnext : ∀ n, i ≠ .next n) (s : State) (x0 x1 : Word) :
    ∃ y0 y1, effectOf i (s.writeWords x0 x1) = (effectOf i s).writeWords y0 y1 := by
  by_cases hseed : ∃ n, i = .seed n
  · obtain ⟨n, rfl⟩ := hseed
    exact ⟨s.a, s.b, rfl⟩
  · obtain ⟨f, hf⟩ := effectOf_pure (not_exists.1 hseed) hnext
    exact ⟨x0, x1, by rw [hf, hf]; rfl⟩

theorem exec_writeWords {i : Instr} (hnext : ∀ n, i ≠ .next n) (s : State) (x0 x1 : Word) :
    ∃ t y0 y1, exec i s = .next t ∧ exec i (s.writeWords x0 x1) = .next (t.writeWords y0 y1) := by
  rw [exec_eq_whenLive, exec_eq_whenLive, State.writeWords_seeded]
  cases hf : s.fault with
  | true =>
    rw [whenLive_of_faulted hf, whenLive_of_faulted (by simpa using hf)]
    exact ⟨s.noValue, x0, x1, rfl, rfl⟩
  | false =>
    rw [whenLive_of_live hf, whenLive_of_live (by simpa using hf)]
    cases violationOf i s.seeded with
    | some c => exact ⟨s.raiseFault c, x0, x1, rfl, rfl⟩
    | none =>
      obtain ⟨y0, y1, hy⟩ := effectOf_writeWords hnext s x0 x1
      exact ⟨effectOf i s, y0, y1, rfl, congrArg _ hy⟩

/-- Settles O50: the two next states differ in their state words only. -/
theorem onlyNextRevealsTheStateWords : Obligations.OnlyNextRevealsTheStateWords := by
  intro i s x0 x1 hnext
  obtain ⟨t, y0, y1, ht, hu⟩ := exec_writeWords hnext s x0 x1
  exact ⟨t, t.writeWords y0 y1, ht, hu, rfl, rfl, rfl, rfl⟩

end Sys2Proof.Machine
end

section
/-! PROOF. The values at reset, the step over a decoded command, and the status word. -/

namespace Sys2Proof.Machine

open Sys2Proof

/-- Settles O1: the values stand in `State.reset`. -/
theorem resetStateHasRuleValues : Obligations.ResetStateHasRuleValues :=
  ⟨rfl, rfl, rfl, rfl, rfl, rfl⟩

/-- Settles O3, through the step's case for a command and the decoder's answer. -/
theorem stepRunsThePresentedCommand : Obligations.StepRunsThePresentedCommand := by
  intro s cmd a b rest i hp hd
  rw [step_of_command hp, perform_of_decode_ok hd]
  rfl

/-- R31, bit by bit. -/
theorem State.status_getLsbD (s : State) (n : Nat) :
    s.status.getLsbD n =
      if n = 0 then s.seeded else if n = 1 then s.fault else s.fcause.getLsbD (n - 2) := by
  change BitVec.getLsbD (w := 3 + 1 + 1) (s.fcause ++ BitVec.ofBool s.fault ++ BitVec.ofBool s.seeded) n = _
  rw [BitVec.getLsbD_append, BitVec.getLsbD_append]
  match n with
  | 0 => simp
  | 1 => simp
  | n + 2 => simp

/-- Settles O6: the bits from 2 on are those of `fcause`. -/
theorem statusWordLayout : Obligations.StatusWordLayout := by
  intro s
  refine ⟨s.status_getLsbD 0, s.status_getLsbD 1, ?_⟩
  apply BitVec.eq_of_getLsbD_eq
  intro k hk
  have h1 : 2 + k ≠ 1 := by omega
  simp [State.status_getLsbD, hk, h1]

end Sys2Proof.Machine
end

section
/-! PROOF. A pure command presented again in the state it left. -/

namespace Sys2Proof.Machine

open Sys2Proof

/-- A command whose check passes in a block without a fault has its effect. -/
theorem exec_of_passed {i : Instr} {s : State} (hlive : s.fault = false)
    (hpass : violationOf i s.seeded = none) : exec i s = .next (effectOf i s) := by
  rw [exec_eq_whenLive, whenLive_of_live hlive, hpass, checked_none]

/-- Settles O51: a faulted block stays as the first presentation left it; otherwise the second one passes the same check
and finds the same operands on the ports. -/
theorem pureCommandsRepeat : Obligations.PureCommandsRepeat := by
  intro i s t hseed hnext h
  obtain ⟨hf, rfl⟩ | ⟨-, c, -, rfl⟩ | ⟨hlive, hpass, rfl⟩ := exec_next_cases h
  · exact exec_of_faulted (s := s.noValue) hf i
  · exact exec_of_faulted (s.raiseFault_fault c) i
  · obtain ⟨f, hf⟩ := effectOf_pure hseed hnext
    have hagain : exec i (effectOf i s) = .next (effectOf i (effectOf i s)) :=
      exec_of_passed (by simpa using hlive) (by rwa [effectOf_seeded hseed])
    have hsame : effectOf i (effectOf i s) = effectOf i s := by rw [hf, hf]; rfl
    rwa [hsame] at hagain

end Sys2Proof.Machine
end

section
/-! PROOF. The words a host forms from bytes and from integers: a word is its eight base-256 digits. -/

namespace Sys2Proof.Machine

open Sys2Proof

/-- R14: byte `i` is the base-256 digit of weight `256 ^ (7 - i)`. -/
theorem byte_toNat (w : Word) {i : Nat} (hi : i < 8) :
    (byte w i).toNat = w.toNat / 256 ^ (7 - i) % 256 := by
  have hweight : 2 ^ (56 - 8 * i) = 256 ^ (7 - i) := by
    rw [show 56 - 8 * i = 8 * (7 - i) by omega, pow_mul, show 2 ^ 8 = 256 from rfl]
  rw [byte, BitVec.extractLsb'_toNat, Nat.shiftRight_eq_div_pow, hweight]

/-- R41: the value of a word from its bytes. -/
theorem toNat_eq_sum_bytes (w : Word) :
    w.toNat = (byte w 0).toNat * 2 ^ 56 + (byte w 1).toNat * 2 ^ 48 + (byte w 2).toNat * 2 ^ 40 +
      (byte w 3).toNat * 2 ^ 32 + (byte w 4).toNat * 2 ^ 24 + (byte w 5).toNat * 2 ^ 16 +
      (byte w 6).toNat * 2 ^ 8 + (byte w 7).toNat := by
  have hw := w.isLt
  simp only [byte_toNat, Nat.reduceLT]
  omega

theorem bytesOf_length (w : Word) : (bytesOf w).length = 8 := by
  simp [bytesOf, wordBytes]

theorem getElem_bytesOf (w : Word) {i : Nat} (hi : i < (bytesOf w).length) : (bytesOf w)[i] = byte w i := by
  simp [bytesOf]

/-- Byte `i` of the word of a list is the list's entry `i`. -/
theorem byte_ofBytes {q : List Byte} (hq : q.length = 8) {i : Nat} (hi : i < 8) :
    byte (ofBytes q) i = q[i] := by
  rw [ofBytes, byte_ofLanes _ hi, List.getD_eq_getElem]

theorem bytesOf_ofBytes {q : List Byte} (hq : q.length = 8) : bytesOf (ofBytes q) = q := by
  apply List.ext_getElem
  · rw [bytesOf_length, hq]
  · intro i _ hi
    rw [getElem_bytesOf, byte_ofBytes hq (by omega)]

theorem ofBytes_bytesOf (w : Word) : ofBytes (bytesOf w) = w :=
  word_eq_of_bytes fun i hi => by rw [byte_ofBytes (bytesOf_length w) hi, getElem_bytesOf]

theorem wordOfBytes_of_length {q : List Byte} (hq : q.length = 8) : wordOfBytes q = some (ofBytes q) :=
  if_pos hq

/-- Settles O7: forming a word and reading its bytes are inverse to each other, and the bytes give its value. -/
theorem eightBytesFormAWordBigEndian : Obligations.EightBytesFormAWordBigEndian := by
  constructor
  · intro q0 q1 q2 q3 q4 q5 q6 q7
    have hq : [q0, q1, q2, q3, q4, q5, q6, q7].length = 8 := rfl
    refine ⟨_, wordOfBytes_of_length hq, bytesOf_ofBytes hq, ?_⟩
    rw [toNat_eq_sum_bytes]
    simp only [byte_ofBytes hq, Nat.reduceLT]
    rfl
  · intro w
    rw [wordOfBytes_of_length (bytesOf_length w), ofBytes_bytesOf]

theorem wordOfNat_of_lt {v : Nat} (hv : v < 2 ^ 64) : wordOfNat v = some (BitVec.ofNat 64 v) :=
  if_pos hv

/-- Settles O9: a word's bytes are the digits of its value, which below `2 ^ 64` is the integer. -/
theorem integersBelowTwoTo64FormWords : Obligations.IntegersBelowTwoTo64FormWords := by
  constructor
  · intro v hv
    have hval : (BitVec.ofNat 64 v).toNat = v := by rw [BitVec.toNat_ofNat, Nat.mod_eq_of_lt hv]
    exact ⟨_, wordOfNat_of_lt hv, hval, fun i hi => by rw [byte_toNat _ hi, hval]⟩
  · intro v hv
    exact if_neg (by omega)

end Sys2Proof.Machine
end

section
/-! PROOF. The words a host forms from hexadecimal digits: a word is its sixteen base-16 digits. -/

namespace Sys2Proof.Machine

open Sys2Proof

/-- The value of digit `j` of a word as R44 writes it, digit 0 the most significant. -/
def nibble (w : Word) (j : Nat) : Nat := w.toNat / 16 ^ (15 - j) % 16

theorem nibble_lt (w : Word) (j : Nat) : nibble w j < 16 := Nat.mod_lt _ (by decide)

/-- R44: byte `i` is made of the digits `2i` and `2i + 1`. -/
theorem byte_toNat_eq_nibbles (w : Word) {i : Nat} (hi : i < 8) :
    (byte w i).toNat = 16 * nibble w (2 * i) + nibble w (2 * i + 1) := by
  have hbyte : 256 ^ (7 - i) = 16 ^ (15 - (2 * i + 1)) := by
    rw [show 15 - (2 * i + 1) = 2 * (7 - i) by omega, pow_mul, show 16 ^ 2 = 256 from rfl]
  have hhigh : 16 ^ (15 - 2 * i) = 16 ^ (15 - (2 * i + 1)) * 16 := by
    rw [← pow_succ, show 15 - (2 * i + 1) + 1 = 15 - 2 * i by omega]
  rw [byte_toNat w hi, nibble, nibble, hbyte, hhigh, ← Nat.div_div_eq_div_mul]
  omega

/-- Words with equal digits are equal. -/
theorem word_eq_of_nibbles {x y : Word} (h : ∀ j, j < 16 → nibble x j = nibble y j) : x = y :=
  word_eq_of_bytes fun i hi => BitVec.eq_of_toNat_eq <| by
    rw [byte_toNat_eq_nibbles x hi, byte_toNat_eq_nibbles y hi, h _ (by omega), h _ (by omega)]

theorem hexVal_lt {c : Char} {v : Nat} (h : hexVal c = some v) : v < 16 := by
  simp only [hexVal] at h
  split_ifs at h <;> cases h <;> omega

/-- The digits the spec writes are read back. -/
theorem hexVal_hexDigit {v : Nat} (hv : v < 16) : hexVal (hexDigit v) = some v := by
  interval_cases v <;> rfl

/-- Digits read on top of `acc` give the number with `acc` above them, in which each digit can be found again. -/
theorem hexNumber_of_digits (cs : List Char) (v : Nat → Nat)
    (h : ∀ j, j < cs.length → (cs[j]?).bind hexVal = some (v j)) (acc : Nat) :
    ∃ n, hexNumber acc cs = some n ∧ n / 16 ^ cs.length = acc ∧
      ∀ j, j < cs.length → n / 16 ^ (cs.length - 1 - j) % 16 = v j := by
  induction cs generalizing v acc with
  | nil => exact ⟨acc, rfl, by simp, by simp⟩
  | cons c cs ih =>
    have hc : hexVal c = some (v 0) := h 0 (by simp)
    have hlt : v 0 < 16 := hexVal_lt hc
    obtain ⟨n, hn, hacc, hdigits⟩ := ih (fun j => v (j + 1))
      (fun j hj => by simpa using h (j + 1) (by simpa using hj)) (16 * acc + v 0)
    refine ⟨n, by simp [hexNumber, hc, hn], ?_, ?_⟩
    · rw [List.length_cons, pow_succ, ← Nat.div_div_eq_div_mul, hacc]
      omega
    · intro j hj
      cases j with
      | zero =>
        rw [List.length_cons, Nat.add_sub_cancel, Nat.sub_zero, hacc]
        omega
      | succ j =>
        rw [← hdigits j (by simpa using hj), List.length_cons]
        congr 3
        omega

/-- A character that is no digit spoils the number. -/
theorem hexNumber_of_not_digit {cs : List Char} (h : ∃ c ∈ cs, hexVal c = none) (acc : Nat) :
    hexNumber acc cs = none := by
  induction cs generalizing acc with
  | nil => simp at h
  | cons c cs ih =>
    cases hc : hexVal c with
    | none => simp [hexNumber, hc]
    | some v =>
      have hcs : ∃ d ∈ cs, hexVal d = none := by simpa [hc] using h
      simpa [hexNumber, hc] using ih hcs (16 * acc + v)

/-- R44: sixteen digits form the word with those digits. -/
theorem wordOfHex_of_digits {cs : List Char} {v : Nat → Nat} (hlen : cs.length = 16)
    (h : ∀ j, j < 16 → (cs[j]?).bind hexVal = some (v j)) :
    ∃ w, wordOfHex cs = some w ∧ ∀ j, j < 16 → nibble w j = v j := by
  obtain ⟨n, hn, hzero, hdigits⟩ := hexNumber_of_digits cs v (by rwa [hlen]) 0
  rw [hlen] at hzero hdigits
  have hval : (BitVec.ofNat 64 n).toNat = n := by
    rw [BitVec.toNat_ofNat, Nat.mod_eq_of_lt (by omega)]
  refine ⟨BitVec.ofNat 64 n, by simp [wordOfHex, hlen, hn], ?_⟩
  intro j hj
  rw [nibble, hval]
  exact hdigits j hj

theorem hexOf_length (w : Word) : (hexOf w).length = 16 := by simp [hexOf]

theorem hexVal_hexOf (w : Word) {j : Nat} (hj : j < 16) :
    ((hexOf w)[j]?).bind hexVal = some (nibble w j) := by
  have hdigit : (hexOf w)[j]? = some (hexDigit (nibble w j)) := by simp [hexOf, nibble, hj]
  rw [hdigit, Option.bind_some, hexVal_hexDigit (nibble_lt w j)]

theorem wordOfHex_hexOf (w : Word) : wordOfHex (hexOf w) = some w := by
  obtain ⟨x, hx, hdigits⟩ := wordOfHex_of_digits (hexOf_length w) fun _ => hexVal_hexOf w
  rw [hx, word_eq_of_nibbles hdigits]

theorem wordOfHex_of_malformed {cs : List Char}
    (h : cs.length ≠ 16 ∨ ∃ c ∈ cs, hexVal c = none) : wordOfHex cs = none := by
  obtain hlen | hbad := h
  · exact if_neg hlen
  · simp [wordOfHex, hexNumber_of_not_digit hbad]

/-- Settles O8: the digits of a well-formed string are the digits of the word, hence of its bytes. -/
theorem sixteenHexDigitsFormAWord : Obligations.SixteenHexDigitsFormAWord := by
  refine ⟨fun cs v hlen h => ?_, wordOfHex_hexOf, fun cs => wordOfHex_of_malformed⟩
  obtain ⟨w, hw, hdigits⟩ := wordOfHex_of_digits hlen h
  refine ⟨w, hw, fun i hi => ?_⟩
  rw [byte_toNat_eq_nibbles w hi, hdigits _ (by omega), hdigits _ (by omega)]

end Sys2Proof.Machine
end

section
/-! PROOF. The decoder and the encoder: a command word is its two fields, and a command is its opcode and its count, so
each of the two determines the other. -/

namespace Sys2Proof

/-- R60: the opcode stands above the count. -/
theorem opField_eq_div (cmd : CmdWord) : opField cmd = cmd.toNat / 128 := by
  rw [opField, BitVec.extractLsb'_toNat, Nat.shiftRight_eq_div_pow]
  have hcmd := cmd.isLt
  omega

/-- R60: the count stands in the low seven bits. -/
theorem cntField_eq_mod (cmd : CmdWord) : cntField cmd = cmd.toNat % 128 := by
  rw [cntField, BitVec.extractLsb'_toNat, Nat.shiftRight_zero]

/-- Command words with equal fields are equal. -/
theorem cmdWord_eq_of_fields {x y : CmdWord} (hop : opField x = opField y) (hcnt : cntField x = cntField y) :
    x = y := by
  rw [opField_eq_div, opField_eq_div] at hop
  rw [cntField_eq_mod, cntField_eq_mod] at hcnt
  exact BitVec.eq_of_toNat_eq (by omega)

/-- R62, R63: a word decodes to a command exactly when its fields are the command's opcode and count. -/
theorem decode_eq_ok_iff {cmd : CmdWord} {i : Instr} :
    decode cmd = .ok i ↔ opField cmd = opcode i ∧ cntField cmd = i.count := by
  constructor
  · intro h
    unfold decode at h
    split at h <;> cases h <;> exact ⟨‹_›, rfl⟩
  · rintro ⟨hop, hcnt⟩
    simp only [decode, hop, hcnt]
    cases i <;> rfl

theorem decode_encode {i : Instr} (h : i.WellFormed) : decode (encode i) = .ok i :=
  decode_eq_ok_iff.2 ⟨opField_encode i, by rw [cntField_encode, Nat.mod_eq_of_lt h]⟩

/-- Settles O12: the fields of the encoded word are the opcode and, where it fits the field, the count. -/
theorem decodeOfEncodeIsTheCommand : Obligations.DecodeOfEncodeIsTheCommand :=
  fun _ => decode_encode

theorem wellFormed_of_decode {cmd : CmdWord} {i : Instr} (h : decode cmd = .ok i) : i.WellFormed := by
  obtain ⟨-, hcnt⟩ := decode_eq_ok_iff.1 h
  rw [Instr.WellFormed, ← hcnt]
  exact cntField_lt cmd

theorem encode_of_decode {cmd : CmdWord} {i : Instr} (h : decode cmd = .ok i) : encode i = cmd := by
  obtain ⟨hop, hcnt⟩ := decode_eq_ok_iff.1 h
  apply cmdWord_eq_of_fields
  · rw [opField_encode, hop]
  · rw [cntField_encode, hcnt, Nat.mod_eq_of_lt (wellFormed_of_decode h)]

/-- Settles O13: the word and the command's encoding have the same fields. -/
theorem encodeOfDecodeIsTheWord : Obligations.EncodeOfDecodeIsTheWord :=
  fun _ _ h => ⟨wellFormed_of_decode h, encode_of_decode h⟩

theorem opcode_le (i : Instr) : opcode i ≤ 11 := by
  cases i <;> simp [opcode]

/-- R62: every opcode up to 11 is some command's, with any count. -/
theorem exists_instr_of_opcode {op : Nat} (hop : op ≤ 11) (cnt : Nat) :
    ∃ i : Instr, opcode i = op ∧ i.count = cnt := by
  match op with
  | 0 => exact ⟨.shl cnt, rfl, rfl⟩
  | 1 => exact ⟨.shr cnt, rfl, rfl⟩
  | 2 => exact ⟨.xor cnt, rfl, rfl⟩
  | 3 => exact ⟨.and cnt, rfl, rfl⟩
  | 4 => exact ⟨.or cnt, rfl, rfl⟩
  | 5 => exact ⟨.not cnt, rfl, rfl⟩
  | 6 => exact ⟨.addb cnt, rfl, rfl⟩
  | 7 => exact ⟨.mulb cnt, rfl, rfl⟩
  | 8 => exact ⟨.clone cnt, rfl, rfl⟩
  | 9 => exact ⟨.seed cnt, rfl, rfl⟩
  | 10 => exact ⟨.next cnt, rfl, rfl⟩
  | 11 => exact ⟨.cvt cnt, rfl, rfl⟩
  | n + 12 => omega

/-- R63, R68: a command word stands for a command exactly when its opcode is not reserved. -/
theorem opField_le_iff (cmd : CmdWord) : opField cmd ≤ 11 ↔ ∃ i, decode cmd = .ok i := by
  constructor
  · intro hop
    obtain ⟨i, hi, hcnt⟩ := exists_instr_of_opcode hop (cntField cmd)
    exact ⟨i, decode_eq_ok_iff.2 ⟨hi.symm, hcnt.symm⟩⟩
  · rintro ⟨i, h⟩
    obtain ⟨hop, -⟩ := decode_eq_ok_iff.1 h
    rw [hop]
    exact opcode_le i

/-- Settles O10: the fields of each word are read off by evaluation. -/
theorem sampleCommandWordsDecode : Obligations.SampleCommandWordsDecode := by
  unfold Obligations.SampleCommandWordsDecode
  decide

end Sys2Proof
end

section
/-! PROOF. The step over a command word of each opcode, the reserved ones included. -/

namespace Sys2Proof.Machine

open Sys2Proof

/-- R68, R167: a word with a reserved opcode is taken as the fault RESERVED_OPCODE. -/
theorem perform_of_reserved {cmd : CmdWord} (hop : 11 < opField cmd) (s : State) :
    perform cmd s = takeReserved s := by
  cases hd : decode cmd with
  | ok i => exact absurd ((opField_le_iff cmd).2 ⟨i, hd⟩) (by omega)
  | error e => exact perform_of_decode_error hd s

/-- Settles O11: a word with a command performs it, and the fields select that command's line of the map; every other
word is reserved. -/
theorem stepFollowsTheOpcodeMap : Obligations.StepFollowsTheOpcodeMap := by
  intro s cmd a b rest hp op cnt t
  have hop : opField cmd = op := opField_eq_div cmd
  have hcnt : cntField cmd = cnt := cntField_eq_mod cmd
  refine ⟨hop ▸ opField_le_iff cmd, ?_⟩
  have hstep : step s = perform cmd t := step_of_command hp
  clear_value op cnt
  rw [hstep]
  by_cases hcommand : op ≤ 11
  · obtain ⟨i, hd⟩ := (opField_le_iff cmd).1 (hop ▸ hcommand)
    obtain ⟨hopcode, hcount⟩ := decode_eq_ok_iff.1 hd
    rw [perform_of_decode_ok hd, ← hop, ← hcnt, hopcode, hcount]
    cases i <;> rfl
  · rw [perform_of_reserved (by omega)]
    have hreserved : ∀ k, k ≤ 11 → op ≠ k := by omega
    simp only [hreserved, Nat.reduceLeDiff, if_false]
    rfl

end Sys2Proof.Machine
end

section
/-! PROOF. What a command does not read: the count outside format S, and the ports its format does not list. -/

namespace Sys2Proof.Machine

open Sys2Proof

theorem opcode_canonical (i : Instr) : opcode (canonical i) = opcode i := by
  cases i <;> rfl

/-- R61: format S is the first two opcodes. -/
theorem readsCnt_eq (i : Instr) : (formatOf i).readsCnt = decide (opcode i ≤ 1) := by
  cases i <;> rfl

theorem count_canonical {i : Instr} (h : (formatOf i).readsCnt = false) : (canonical i).count = 0 := by
  cases i with
  | shl _ | shr _ => cases h
  | _ => rfl

/-- Well-formed commands with the same opcode and count have the same encoding, hence are equal. -/
theorem instr_eq_of_opcode {i j : Instr} (hi : i.WellFormed) (hop : opcode i = opcode j)
    (hcnt : i.count = j.count) : i = j := by
  have hword : encode i = encode j := by rw [encode, encode, hop, hcnt]
  have hj : j.WellFormed := by rwa [Instr.WellFormed, ← hcnt]
  have h := decode_encode hi
  rw [hword, decode_encode hj] at h
  exact (Except.ok.inj h).symm

/-- Outside format S the opcode alone gives the canonical command. -/
theorem canonical_eq_of_opcode {i j : Instr} (h : (formatOf i).readsCnt = false) (hop : opcode i = opcode j) :
    canonical i = canonical j := by
  have hi : (canonical i).count = 0 := count_canonical h
  have hj : (canonical j).count = 0 := count_canonical (by rwa [readsCnt_eq, ← hop, ← readsCnt_eq])
  apply instr_eq_of_opcode
  · rw [Instr.WellFormed, hi]
    decide
  · rw [opcode_canonical, opcode_canonical, hop]
  · rw [hi, hj]

/-- R65: the canonical command has the same outcome. -/
theorem exec_canonical (i : Instr) (s : State) : exec (canonical i) s = exec i s := by
  cases i <;> rfl

/-- Settles O14: commands with one opcode have one canonical command, and it has the outcome of each. -/
theorem countIsIgnoredOutsideShifts : Obligations.CountIsIgnoredOutsideShifts := by
  intro i j s hformat hop
  refine ⟨?_, exec_canonical i s, count_canonical hformat⟩
  calc exec i s = exec (canonical i) s := (exec_canonical i s).symm
    _ = exec (canonical j) s := by rw [canonical_eq_of_opcode hformat hop]
    _ = exec j s := exec_canonical j s

/-- Every command completes in every state. -/
theorem exec_completes (i : Instr) (s : State) : ∃ t, exec i s = .next t := by
  rw [exec_eq_whenLive]
  obtain ⟨-, h⟩ | ⟨-, h⟩ := whenLive_cases s (checked (violationOf i s.seeded) (effectOf i))
  · exact ⟨_, h⟩
  · exact ⟨_, h⟩

/-- No command writes the operand ports or the later requests. -/
theorem exec_keeps_ports {i : Instr} {s t : State} (h : exec i s = .next t) :
    t.a = s.a ∧ t.b = s.b ∧ t.pending = s.pending := by
  obtain ⟨-, rfl⟩ | ⟨-, c, -, rfl⟩ | ⟨-, -, rfl⟩ := exec_next_cases h
  · exact ⟨rfl, rfl, rfl⟩
  · exact ⟨rfl, rfl, rfl⟩
  · cases i <;> exact ⟨rfl, rfl, rfl⟩

/-- What is presented shows in the outcome of a command only through the command's effect: neither the flag `fault` nor
the check reads it. -/
theorem exec_present {i : Instr} {s t : State} {a b : Word} {rest : List Request}
    (heffect : effectOf i (s.present a b rest) = (effectOf i s).present a b rest) (h : exec i s = .next t) :
    exec i (s.present a b rest) = .next (t.present a b rest) := by
  obtain ⟨hf, rfl⟩ | ⟨hlive, c, hc, rfl⟩ | ⟨hlive, hpass, rfl⟩ := exec_next_cases h
  · exact exec_of_faulted (s := s.present a b rest) hf i
  · rw [exec_eq_whenLive, whenLive_of_live (by simpa using hlive), State.present_seeded, hc, checked_some]
    rfl
  · rw [exec_of_passed (by simpa using hlive) (by simpa using hpass), heffect]

/-- R61, R66: the effect of a command that does not list `a` does not read it. -/
theorem effectOf_present_a {i : Instr} (h : (formatOf i).readsA = false) (s : State) (x : Word)
    (rest : List Request) : effectOf i (s.present x s.b rest) = (effectOf i s).present x s.b rest := by
  cases i with
  | next _ => rfl
  | _ => cases h

/-- R61, R66: the effect of a command that does not list `b` does not read it. -/
theorem effectOf_present_b {i : Instr} (h : (formatOf i).readsB = false) (s : State) (x : Word)
    (rest : List Request) : effectOf i (s.present s.a x rest) = (effectOf i s).present s.a x rest := by
  cases i with
  | shl _ | shr _ | not _ | clone _ | next _ | cvt _ => rfl
  | _ => cases h

/-- Settles O15: presenting another word on an unread port commutes with the command. -/
theorem unreadPortsDoNotMatter : Obligations.UnreadPortsDoNotMatter := by
  intro i s x
  obtain ⟨t, ht⟩ := exec_completes i s
  obtain ⟨ha, hb, hpending⟩ := exec_keeps_ports ht
  refine ⟨t, ht, fun hreads => ?_, fun hreads => ?_⟩
  · have h := exec_present (effectOf_present_a hreads s x s.pending) ht
    exact h.trans (by rw [← hb, ← hpending]; rfl)
  · have h := exec_present (effectOf_present_b hreads s x s.pending) ht
    exact h.trans (by rw [← ha, ← hpending]; rfl)

end Sys2Proof.Machine
end

section
/-! PROOF. Assembled lines: what each of the three kinds of line presents, and when it presents nothing. -/

namespace Sys2Proof.Machine

open Sys2Proof

section

variable {i : Instr} {returned : List (Option Word)} {x y : Operand} {v w a b : Word} {cmd : CmdWord}

/-- R70 (log 15): `$(n + 1)` is what the command with `n` commands before it returned. -/
theorem value_prior_succ (returned : List (Option Word)) (n : Nat) (v : Word) :
    (Operand.prior (n + 1)).value returned = some v ↔ returned[n]? = some (some v) := by
  rw [Operand.value, List.getD_eq_getElem?_getD]
  cases returned[n]? <;> simp

theorem unaryRequest_of_value (hx : x.value returned = some v) :
    unaryRequest i returned x = some (.command (encode i) v 0#64) := by
  rw [unaryRequest, hx, Option.map_some]

theorem unaryRequest_of_none (hx : x.value returned = none) : unaryRequest i returned x = none := by
  rw [unaryRequest, hx, Option.map_none]

theorem shiftRequest_of_wellFormed (hi : i.WellFormed) :
    shiftRequest i returned x = unaryRequest i returned x := if_pos hi

theorem shiftRequest_of_wide (hi : 128 ≤ i.count) : shiftRequest i returned x = none :=
  if_neg (by omega)

theorem shiftRequest_of_none (hx : x.value returned = none) : shiftRequest i returned x = none := by
  rw [shiftRequest, unaryRequest_of_none hx, ite_self]

theorem binaryRequest_of_values (hx : x.value returned = some v) (hy : y.value returned = some w) :
    binaryRequest i returned x y = some (.command (encode i) v w) := by
  rw [binaryRequest, hx, hy]

theorem binaryRequest_of_left_none (hx : x.value returned = none) : binaryRequest i returned x y = none := by
  rw [binaryRequest, hx]

theorem binaryRequest_of_right_none (hy : y.value returned = none) : binaryRequest i returned x y = none := by
  cases hx : x.value returned <;> rw [binaryRequest, hx, hy]

/-- A line with one operand presents its command, the operand on `a`. -/
theorem unaryRequest_presents (hi : i.WellFormed) (hx : x.value returned = some v) :
    ∃ cmd b, unaryRequest i returned x = some (.command cmd v b) ∧ decode cmd = .ok i :=
  ⟨encode i, 0#64, unaryRequest_of_value hx, decode_encode hi⟩

/-- A shift line presents its command with the written count, the operand on `a`. -/
theorem shiftRequest_presents (hi : i.WellFormed) (hx : x.value returned = some v) :
    ∃ cmd b, shiftRequest i returned x = some (.command cmd v b) ∧ decode cmd = .ok i := by
  rw [shiftRequest_of_wellFormed hi]
  exact unaryRequest_presents hi hx

/-- A line with two operands presents its command, the operands on `a` and `b` in the order written. -/
theorem binaryRequest_presents (hi : i.WellFormed) (hx : x.value returned = some v)
    (hy : y.value returned = some w) :
    ∃ cmd, binaryRequest i returned x y = some (.command cmd v w) ∧ decode cmd = .ok i :=
  ⟨encode i, binaryRequest_of_values hx hy, decode_encode hi⟩

theorem decode_of_unaryRequest (hi : i.WellFormed)
    (h : unaryRequest i returned x = some (.command cmd a b)) : decode cmd = .ok i := by
  cases hx : x.value returned with
  | none =>
    rw [unaryRequest_of_none hx] at h
    cases h
  | some v =>
    rw [unaryRequest_of_value hx] at h
    cases h
    exact decode_encode hi

theorem decode_of_shiftRequest (h : shiftRequest i returned x = some (.command cmd a b)) :
    decode cmd = .ok i := by
  by_cases hi : i.WellFormed
  · exact decode_of_unaryRequest hi (shiftRequest_of_wellFormed hi ▸ h)
  · rw [shiftRequest_of_wide (by omega)] at h
    cases h

theorem decode_of_binaryRequest (hi : i.WellFormed)
    (h : binaryRequest i returned x y = some (.command cmd a b)) : decode cmd = .ok i := by
  cases hx : x.value returned with
  | none =>
    rw [binaryRequest_of_left_none hx] at h
    cases h
  | some v =>
    cases hy : y.value returned with
    | none =>
      rw [binaryRequest_of_right_none hy] at h
      cases h
    | some w =>
      rw [binaryRequest_of_values hx hy] at h
      cases h
      exact decode_encode hi

/-- R65, R70: every word a listing presents decodes to a command in canonical form. -/
theorem lineRequest_canonical {l : Line} (h : l.request returned = some (.command cmd a b)) :
    ∃ i, decode cmd = .ok i ∧ canonical i = i := by
  cases l with
  | reset => cases h
  | shl x n | shr x n => exact ⟨_, decode_of_shiftRequest h, rfl⟩
  | not x | clone x | cvt x => exact ⟨_, decode_of_unaryRequest (by decide) h, rfl⟩
  | xor x y | and x y | or x y | addb x y | mulb x y | seed x y =>
    exact ⟨_, decode_of_binaryRequest (by decide) h, rfl⟩
  | next =>
    cases h
    exact ⟨.next 0, decode_encode (by decide), rfl⟩

/-- A line whose first operand has no value presents nothing, and neither does a line of two operands whose second has
none. -/
theorem lineRequest_of_none (hx : x.value returned = none) (y : Operand) (n : Nat) :
    ∀ l ∈ [Line.shl x n, .shr x n, .not x, .clone x, .cvt x, .xor x y, .and x y, .or x y, .addb x y,
      .mulb x y, .seed x y, .xor y x, .and y x, .or y x, .addb y x, .mulb y x, .seed y x],
      l.request returned = none := by
  simp [Line.request, shiftRequest_of_none hx, unaryRequest_of_none hx, binaryRequest_of_left_none hx,
    binaryRequest_of_right_none hx]

end

/-- Settles O16: each line is one of the three kinds of request with its own command, whose encoding decodes to it. -/
theorem assembledLinesAreCanonicalCommands : Obligations.AssembledLinesAreCanonicalCommands := by
  refine ⟨fun returned w n => ⟨rfl, rfl, value_prior_succ returned n⟩, fun returned x v hx => ?_,
    fun returned => ?_, fun returned x n hn => ⟨shiftRequest_of_wide hn, shiftRequest_of_wide hn⟩,
    fun returned x y n hx => lineRequest_of_none hx y n, fun l returned cmd a b => lineRequest_canonical⟩
  · have hunary {i : Instr} (hi : i.WellFormed) := unaryRequest_presents hi hx
    refine ⟨fun n hn => ⟨shiftRequest_presents hn hx, shiftRequest_presents hn hx⟩, hunary (by decide),
      hunary (by decide), hunary (by decide), fun y w hy => ?_⟩
    have hbinary {i : Instr} (hi : i.WellFormed) := binaryRequest_presents hi hx hy
    exact ⟨hbinary (by decide), hbinary (by decide), hbinary (by decide), hbinary (by decide),
      hbinary (by decide), hbinary (by decide)⟩
  · exact ⟨rfl, encode (.next 0), 0#64, 0#64, rfl, decode_encode (by decide)⟩

end Sys2Proof.Machine
end

section
/-! PROOF. The functions `shl64` and `shr64` by value and bit by bit, and the two shift commands. -/

namespace Sys2Proof.Machine

open Sys2Proof

/-- R82, the value. -/
theorem shl64_toNat (w : Word) (n : Nat) : (shl64 w n).toNat = w.toNat * 2 ^ n % 2 ^ 64 := by
  rw [shl64, BitVec.toNat_shiftLeft, Nat.shiftLeft_eq]

/-- R82, bit by bit. -/
theorem getLsbD_shl64 (w : Word) (n : Nat) {i : Nat} (hi : i < 64) :
    (shl64 w n).getLsbD i = if n ≤ i then w.getLsbD (i - n) else false := by
  rw [shl64, BitVec.getLsbD_shiftLeft]
  by_cases hn : n ≤ i
  · simp [hi, hn]
  · simp [hn, Nat.lt_of_not_le hn]

/-- R87, R88: a left shift by the width or more leaves nothing. -/
theorem shl64_eq_zero {n : Nat} (hn : 64 ≤ n) (w : Word) : shl64 w n = 0#64 :=
  BitVec.shiftLeft_eq_zero hn

theorem shl64_add (w : Word) (m n : Nat) : shl64 w (m + n) = shl64 (shl64 w m) n :=
  BitVec.shiftLeft_add w m n

/-- R85, the value. -/
theorem shr64_toNat (w : Word) (n : Nat) : (shr64 w n).toNat = w.toNat / 2 ^ n := by
  rw [shr64, BitVec.toNat_ushiftRight, Nat.shiftRight_eq_div_pow]

/-- R85, bit by bit; above bit 63 there is nothing to shift in. -/
theorem getLsbD_shr64 (w : Word) (n i : Nat) :
    (shr64 w n).getLsbD i = if i + n ≤ 63 then w.getLsbD (i + n) else false := by
  rw [shr64, BitVec.getLsbD_ushiftRight, Nat.add_comm]
  split
  · rfl
  · exact BitVec.getLsbD_of_ge w _ (by omega)

/-- R87: a right shift by the width or more leaves nothing. -/
theorem shr64_eq_zero {n : Nat} (hn : 64 ≤ n) (w : Word) : shr64 w n = 0#64 :=
  BitVec.ushiftRight_eq_zero hn

theorem shr64_add (w : Word) (m n : Nat) : shr64 w (m + n) = shr64 (shr64 w m) n :=
  BitVec.shiftRight_add w m n

/-- Settles O17: the count passes the check, and `shl64` of the operand is what the clauses say. -/
theorem shlReturnsTheLogicalLeftShift : Obligations.ShlReturnsTheLogicalLeftShift := by
  intro s cnt hlive hmin hmax
  have hpass : violationOf (.shl cnt) s.seeded = none := (checkCount_eq_none_iff cnt).2 ⟨hmin, hmax⟩
  exact ⟨shl64 s.a cnt, exec_of_passed hlive hpass, shl64_toNat s.a cnt,
    fun i hi => getLsbD_shl64 s.a cnt hi, fun hwide => shl64_eq_zero hwide s.a⟩

/-- Settles O18: the count passes the check, and `shr64` of the operand is what the clauses say. -/
theorem shrReturnsTheLogicalRightShift : Obligations.ShrReturnsTheLogicalRightShift := by
  intro s cnt hlive hmin hmax
  have hpass : violationOf (.shr cnt) s.seeded = none := (checkCount_eq_none_iff cnt).2 ⟨hmin, hmax⟩
  exact ⟨shr64 s.a cnt, exec_of_passed hlive hpass, shr64_toNat s.a cnt,
    fun i _ => getLsbD_shr64 s.a cnt i, fun hwide => shr64_eq_zero hwide s.a⟩

end Sys2Proof.Machine
end

section
/-! PROOF. D00's stages: on the bytes of a word the byte stage is a shift by a multiple of 8, the bit stage a shift by
less than 8, and one after the other they are the whole shift. -/

namespace Sys2Proof.Machine

open Sys2Proof

theorem getElem?_bytesOf (w : Word) (i : Nat) :
    (bytesOf w)[i]? = if i < 8 then some (byte w i) else none := by
  by_cases hi : i < 8
  · simp [bytesOf, wordBytes, hi]
  · simp [bytesOf, wordBytes, hi]

/-- The bytes past the last one read as 0. -/
theorem getD_bytesOf (w : Word) (i : Nat) :
    (bytesOf w).getD i 0#8 = if i < 8 then byte w i else 0#8 := by
  rw [List.getD_eq_getElem?_getD, getElem?_bytesOf]
  split <;> rfl

/-- R83 stage 1 in bytes: byte `i` of the shifted word is byte `i + k` of the word. -/
theorem byte_shl64_mul_eight (w : Word) (k : Nat) {i : Nat} (hi : i < 8) :
    byte (shl64 w (8 * k)) i = if i + k ≤ 7 then byte w (i + k) else 0#8 := by
  apply BitVec.eq_of_getLsbD_eq
  intro j hj
  rw [getLsbD_byte _ hj, getLsbD_shl64 _ _ (by omega)]
  by_cases hk : i + k ≤ 7
  · rw [if_pos hk, if_pos (by omega), getLsbD_byte _ hj]
    congr 1
    omega
  · rw [if_neg hk, if_neg (by omega), BitVec.getLsbD_zero]

/-- R86 stage 1 in bytes: byte `i` of the shifted word is byte `i - k` of the word. -/
theorem byte_shr64_mul_eight (w : Word) (k : Nat) {i : Nat} (hi : i < 8) :
    byte (shr64 w (8 * k)) i = if k ≤ i then byte w (i - k) else 0#8 := by
  apply BitVec.eq_of_getLsbD_eq
  intro j hj
  rw [getLsbD_byte _ hj, getLsbD_shr64]
  by_cases hk : k ≤ i
  · rw [if_pos hk, if_pos (by omega), getLsbD_byte _ hj]
    congr 1
    omega
  · rw [if_neg hk, if_neg (by omega), BitVec.getLsbD_zero]

theorem shlByteStage_bytesOf (w : Word) (k : Nat) :
    shlByteStage k (bytesOf w) = bytesOf (shl64 w (8 * k)) := by
  apply List.map_congr_left
  intro i hi
  have hi8 : i < 8 := List.mem_range.1 hi
  rw [byte_shl64_mul_eight w k hi8]
  split
  · rw [getD_bytesOf, if_pos (by omega)]
  · rfl

theorem shrByteStage_bytesOf (w : Word) (k : Nat) :
    shrByteStage k (bytesOf w) = bytesOf (shr64 w (8 * k)) := by
  apply List.map_congr_left
  intro i hi
  have hi8 : i < 8 := List.mem_range.1 hi
  rw [byte_shr64_mul_eight w k hi8, getD_bytesOf, if_pos (show i - k < 8 by omega)]

/-- R83: the carry out of the scanned bytes is what left the top of the first one. -/
theorem shlBitStage_carry (r : Nat) (q : List Byte) : (shlBitStage r q).2 = q.getD 0 0#8 >>> (8 - r) := by
  cases q with
  | nil => exact BitVec.zero_ushiftRight.symm
  | cons p ps => rfl

/-- R83 stage 2, byte by byte: each byte takes in the top bits of the byte after it. -/
theorem getElem?_shlBitStage (r : Nat) (q : List Byte) (i : Nat) :
    (shlBitStage r q).1[i]? = q[i]?.map fun p : Byte => p <<< r ||| q.getD (i + 1) 0#8 >>> (8 - r) := by
  induction q generalizing i with
  | nil => rfl
  | cons p ps ih =>
    cases i with
    | zero => simp [shlBitStage, shlBitStage_carry]
    | succ i => simpa [shlBitStage] using ih i

/-- Of the carry of R86 only the low `r` bits of the byte before reach the byte they enter. -/
theorem low_bits_shiftLeft (p : Byte) {r : Nat} (hr : r ≤ 8) :
    BitVec.ofNat 8 (p.toNat % 2 ^ r) <<< (8 - r) = p <<< (8 - r) := by
  apply BitVec.eq_of_getLsbD_eq
  intro j hj
  simp only [BitVec.getLsbD_shiftLeft, BitVec.getLsbD_ofNat, Nat.testBit_mod_two_pow]
  have hlow : j - (8 - r) < r ∨ j < 8 - r := by omega
  obtain hlow | hlow := hlow
  · simp [hlow, BitVec.testBit_toNat, show j - (8 - r) < 8 by omega]
  · simp [hlow]

/-- R86 stage 2, byte by byte: each byte takes in the low bits of the byte before it, which is `before` for the first. -/
theorem getElem?_shrBitStage {r : Nat} (hr : r ≤ 8) (before : Byte) (q : List Byte) (i : Nat) :
    (shrBitStage r (BitVec.ofNat 8 (before.toNat % 2 ^ r)) q)[i]? =
      q[i]?.map fun p : Byte => p >>> r ||| (before :: q).getD i 0#8 <<< (8 - r) := by
  induction q generalizing before i with
  | nil => rfl
  | cons p ps ih =>
    cases i with
    | zero => simp [shrBitStage, low_bits_shiftLeft before hr]
    | succ i => simpa [shrBitStage] using ih p i

/-- R83 stage 2 in bytes: bit `j` of byte `i` of the shifted word comes from the same byte when `r ≤ j`, and otherwise
from the byte after it. -/
theorem byte_shl64_of_le_eight (w : Word) {r i : Nat} (hr : r ≤ 8) (hi : i < 8) :
    byte (shl64 w r) i = byte w i <<< r ||| (bytesOf w).getD (i + 1) 0#8 >>> (8 - r) := by
  apply BitVec.eq_of_getLsbD_eq
  intro j hj
  rw [getLsbD_byte _ hj, getLsbD_shl64 _ _ (by omega), BitVec.getLsbD_or, BitVec.getLsbD_shiftLeft,
    BitVec.getLsbD_ushiftRight]
  by_cases hrj : r ≤ j
  · have hcarry : ((bytesOf w).getD (i + 1) 0#8).getLsbD (8 - r + j) = false :=
      BitVec.getLsbD_of_ge _ _ (by omega)
    have hpos : 56 - 8 * i + j - r = 56 - 8 * i + (j - r) := by omega
    rw [hcarry, getLsbD_byte w (by omega), if_pos (by omega), hpos]
    simp [hj, hrj]
  · rw [getD_bytesOf]
    by_cases hlast : i + 1 < 8
    · have hpos : 56 - 8 * i + j - r = 56 - 8 * (i + 1) + (8 - r + j) := by omega
      rw [if_pos hlast, getLsbD_byte w (show 8 - r + j < 8 by omega), if_pos (by omega), hpos]
      simp [Nat.lt_of_not_le hrj]
    · rw [if_neg hlast, if_neg (by omega)]
      simp [Nat.lt_of_not_le hrj]

/-- R86 stage 2 in bytes: bit `j` of byte `i` of the shifted word comes from the same byte when `j + r < 8`, and otherwise
from the byte before it. -/
theorem byte_shr64_of_le_eight (w : Word) {r i : Nat} (hr : r ≤ 8) (hi : i < 8) :
    byte (shr64 w r) i = byte w i >>> r ||| (0#8 :: bytesOf w).getD i 0#8 <<< (8 - r) := by
  apply BitVec.eq_of_getLsbD_eq
  intro j hj
  rw [getLsbD_byte _ hj, getLsbD_shr64, BitVec.getLsbD_or, BitVec.getLsbD_ushiftRight,
    BitVec.getLsbD_shiftLeft]
  by_cases hrj : j + r < 8
  · have hpos : 56 - 8 * i + j + r = 56 - 8 * i + (r + j) := by omega
    rw [getLsbD_byte w (by omega), if_pos (by omega), hpos]
    simp [show j < 8 - r by omega]
  · have hsame : (byte w i).getLsbD (r + j) = false := BitVec.getLsbD_of_ge _ _ (by omega)
    rw [hsame]
    cases i with
    | zero =>
      rw [if_neg (by omega)]
      simp
    | succ i =>
      have hpos : 56 - 8 * (i + 1) + j + r = 56 - 8 * i + (j - (8 - r)) := by omega
      rw [List.getD_cons_succ, getD_bytesOf, if_pos (show i < 8 by omega), getLsbD_byte w (by omega),
        if_pos (by omega), hpos]
      simp [hj, show ¬ j < 8 - r by omega]

theorem shlBitStage_bytesOf (w : Word) {r : Nat} (hr : r ≤ 8) :
    (shlBitStage r (bytesOf w)).1 = bytesOf (shl64 w r) := by
  apply List.ext_getElem?
  intro i
  rw [getElem?_shlBitStage, getElem?_bytesOf, getElem?_bytesOf]
  by_cases hi : i < 8
  · rw [if_pos hi, if_pos hi, byte_shl64_of_le_eight w hr hi, Option.map_some]
  · rw [if_neg hi, if_neg hi, Option.map_none]

theorem shrBitStage_bytesOf (w : Word) {r : Nat} (hr : r ≤ 8) :
    shrBitStage r 0#8 (bytesOf w) = bytesOf (shr64 w r) := by
  have hcarry : 0#8 = BitVec.ofNat 8 ((0#8).toNat % 2 ^ r) := by simp
  apply List.ext_getElem?
  intro i
  rw [hcarry, getElem?_shrBitStage hr, getElem?_bytesOf, getElem?_bytesOf]
  by_cases hi : i < 8
  · rw [if_pos hi, if_pos hi, byte_shr64_of_le_eight w hr hi, Option.map_some]
  · rw [if_neg hi, if_neg hi, Option.map_none]

/-- R87: the byte part and the bit part of the count, shifted by one after the other, are the whole shift. -/
theorem shlStages_eq (w : Word) (n : Nat) : shlStages w n = shl64 w n := by
  rw [shlStages, shlByteStage_bytesOf]
  split
  · rw [ofBytes_bytesOf, show 8 * (n / 8) = n by omega]
  · rw [shlBitStage_bytesOf _ (by omega), ofBytes_bytesOf, ← shl64_add, Nat.div_add_mod]

theorem shrStages_eq (w : Word) (n : Nat) : shrStages w n = shr64 w n := by
  rw [shrStages, shrByteStage_bytesOf]
  split
  · rw [ofBytes_bytesOf, show 8 * (n / 8) = n by omega]
  · rw [shrBitStage_bytesOf _ (by omega), ofBytes_bytesOf, ← shr64_add, Nat.div_add_mod]

/-- Settles O21: the stages are the shifts for every count, and the shifts by 64 or more are 0. -/
theorem shifterStagesGiveTheShift : Obligations.ShifterStagesGiveTheShift := by
  intro w n _ _
  rw [shlStages_eq, shrStages_eq]
  exact ⟨rfl, rfl, fun hwide => ⟨shl64_eq_zero hwide w, shr64_eq_zero hwide w⟩⟩

/-- Settles O22: a shift by 8 is the byte stage for one byte, and a byte-shift component of 8 is a count of 64 or more. -/
theorem wholeByteShiftsMoveBytes : Obligations.WholeByteShiftsMoveBytes := by
  refine ⟨fun w => ⟨?_, ?_⟩, by decide, fun w n hn => shl64_eq_zero (by omega) w⟩
  · exact (shlByteStage_bytesOf w 1).symm
  · exact (shrByteStage_bytesOf w 1).symm

end Sys2Proof.Machine
end

section
/-! PROOF. XOR, AND, OR, NOT and CLONE: the words they return are those of the library's operations on bits. -/

namespace Sys2Proof.Machine

open Sys2Proof

theorem ones_eq_allOnes : 0xFFFFFFFFFFFFFFFF#64 = BitVec.allOnes 64 := rfl

/-- R101, lane by lane. -/
theorem byte_xor (a b : Word) (i : Nat) : byte (a ^^^ b) i = byte a i ^^^ byte b i :=
  BitVec.extractLsb'_xor

/-- Settles O23: exclusive or is inequality of bits, and the corner cases are its laws. -/
theorem xorReturnsTheExclusiveOr : Obligations.XorReturnsTheExclusiveOr := by
  refine ⟨rfl, fun s cnt hlive => ⟨s.a ^^^ s.b, exec_of_passed hlive rfl, fun i _ => ?_,
    fun i _ => byte_xor s.a s.b i, fun h => ?_, fun h => ?_, fun h => ?_⟩⟩
  · rw [BitVec.getLsbD_xor, Bool.xor_iff_ne]
  · rw [h, BitVec.xor_self]
  · rw [h, BitVec.xor_zero]
  · rw [h, ones_eq_allOnes, BitVec.xor_allOnes]

/-- Settles O24: the corner cases are the laws of conjunction. -/
theorem andReturnsTheConjunction : Obligations.AndReturnsTheConjunction := by
  refine ⟨rfl, fun s cnt hlive => ⟨s.a &&& s.b, exec_of_passed hlive rfl, fun i _ => ?_, fun h => ?_,
    fun h => ?_, fun h => ?_⟩⟩
  · rw [BitVec.getLsbD_and, Bool.and_eq_true]
  · rw [h, ones_eq_allOnes, BitVec.and_allOnes]
  · rw [h, BitVec.and_zero]
  · rw [← h, BitVec.and_self]

/-- Settles O25: the corner cases are the laws of disjunction. -/
theorem orReturnsTheDisjunction : Obligations.OrReturnsTheDisjunction := by
  refine ⟨rfl, fun s cnt hlive => ⟨s.a ||| s.b, exec_of_passed hlive rfl, fun i _ => ?_, fun h => ?_,
    fun h => ?_, fun h => ?_⟩⟩
  · rw [BitVec.getLsbD_or, Bool.or_eq_true]
  · rw [h, BitVec.or_zero]
  · rw [h, ones_eq_allOnes, BitVec.or_allOnes]
  · rw [← h, BitVec.or_self]

/-- The whole next state of a NOT. -/
theorem exec_not {s : State} (hlive : s.fault = false) (cnt : Nat) :
    exec (.not cnt) s = .next (s.returnWord (~~~s.a)) :=
  exec_of_passed hlive rfl

/-- Settles O26: the second NOT finds the complement on the port and returns its complement, which is the first word. -/
theorem notReturnsTheComplement : Obligations.NotReturnsTheComplement := by
  refine ⟨rfl, fun s cnt hlive => ⟨~~~s.a, exec_not hlive cnt, fun i hi => ?_, BitVec.toNat_not, ?_⟩⟩
  · simp [hi]
  · rw [exec_not (s := { s with a := ~~~s.a }) hlive, BitVec.not_not]
    rfl

/-- Settles O30: the effect of CLONE is to return its operand. -/
theorem cloneReturnsItsOperand : Obligations.CloneReturnsItsOperand :=
  ⟨rfl, fun _ _ hlive => exec_of_passed hlive rfl⟩

end Sys2Proof.Machine
end

section
/-! PROOF. The byte-lane add and multiply: their laws, which hold because they hold in each lane. -/

namespace Sys2Proof.Machine

open Sys2Proof

/-- Every lane of a zero word is 0. -/
theorem byte_zero (i : Nat) : byte 0#64 i = 0#8 := BitVec.extractLsb'_zero

/-- Every lane of the unit of the byte-lane multiply is 1. -/
theorem byte_ones_in_lanes {i : Nat} (hi : i < 8) : byte 0x0101010101010101#64 i = 1#8 := by
  revert i
  decide

theorem addb_comm (a b : Word) : addb a b = addb b a :=
  word_eq_of_bytes fun i hi => by rw [byte_addb a b hi, byte_addb b a hi, BitVec.add_comm]

theorem addb_assoc (a b c : Word) : addb (addb a b) c = addb a (addb b c) :=
  word_eq_of_bytes fun i hi => by simp only [byte_addb _ _ hi, BitVec.add_assoc]

theorem addb_zero (a : Word) : addb a 0#64 = a :=
  word_eq_of_bytes fun i hi => by rw [byte_addb a _ hi, byte_zero, BitVec.add_zero]

theorem mulb_comm (a b : Word) : mulb a b = mulb b a :=
  word_eq_of_bytes fun i hi => by rw [byte_mulb a b hi, byte_mulb b a hi, BitVec.mul_comm]

theorem mulb_ones_in_lanes (a : Word) : mulb a 0x0101010101010101#64 = a :=
  word_eq_of_bytes fun i hi => by rw [byte_mulb a _ hi, byte_ones_in_lanes hi, BitVec.mul_one]

theorem mulb_zero (a : Word) : mulb a 0#64 = 0#64 :=
  word_eq_of_bytes fun i hi => by rw [byte_mulb a _ hi, byte_zero, BitVec.mul_zero]

/-- R105: a lane of the sum, as a number. -/
theorem byte_addb_toNat (a b : Word) {i : Nat} (hi : i < 8) :
    (byte (addb a b) i).toNat = ((byte a i).toNat + (byte b i).toNat) % 256 := by
  rw [byte_addb a b hi, BitVec.toNat_add]

/-- R106: a lane of the product, as a number. -/
theorem byte_mulb_toNat (a b : Word) {i : Nat} (hi : i < 8) :
    (byte (mulb a b) i).toNat = (byte a i).toNat * (byte b i).toNat % 256 := by
  rw [byte_mulb a b hi, BitVec.toNat_mul]

/-- Settles O28: `mulb` of the operands lane by lane, its unit and its zero, and the one product evaluated. -/
theorem mulbMultipliesEachLaneAlone : Obligations.MulbMultipliesEachLaneAlone := by
  refine ⟨rfl, fun s cnt hlive => ⟨mulb s.a s.b, exec_of_passed hlive rfl,
    fun i hi => byte_mulb_toNat s.a s.b hi, fun h => ?_, fun h => ?_, fun ⟨ha, hb⟩ => ?_⟩⟩
  · rw [h, mulb_ones_in_lanes]
  · rw [h, mulb_zero]
  · rw [ha, hb]
    decide

end Sys2Proof.Machine
end

section
/-! PROOF. The byte-lane add against true addition: in true addition each lane also takes in the carry of the lanes below
it, which comes down to whether the lane just below overflows. -/

namespace Sys2Proof.Machine

open Sys2Proof

/-- What true addition carries into lane `i`: how often the weight of the lane goes into the sum of what the lanes
below it hold. -/
def carryInto (a b : Word) (i : Nat) : Nat :=
  (a.toNat % 256 ^ (7 - i) + b.toNat % 256 ^ (7 - i)) / 256 ^ (7 - i)

theorem carryInto_le_one (a b : Word) (i : Nat) : carryInto a b i ≤ 1 := by
  have hpos : 0 < 256 ^ (7 - i) := by positivity
  have ha := Nat.mod_lt a.toNat hpos
  have hb := Nat.mod_lt b.toNat hpos
  exact Nat.le_of_lt_succ ((Nat.div_lt_iff_lt_mul hpos).2 (by omega))

/-- No lane stands below lane 7. -/
theorem carryInto_seven (a b : Word) : carryInto a b 7 = 0 := by
  simp [carryInto, Nat.mod_one]

/-- The carry ripples: a lane hands on what its own sum, with the carry into it, has above 255. -/
theorem carryInto_eq_of_lt (a b : Word) {i : Nat} (hi : i < 7) :
    carryInto a b i = ((byte a (i + 1)).toNat + (byte b (i + 1)).toNat + carryInto a b (i + 1)) / 256 := by
  have hweight : 256 ^ (7 - i) = 256 ^ (7 - (i + 1)) * 256 := by
    rw [← pow_succ, show 7 - (i + 1) + 1 = 7 - i by omega]
  rw [byte_toNat a (by omega), byte_toNat b (by omega), carryInto, carryInto, hweight]
  have hpos : 0 < 256 ^ (7 - (i + 1)) := by positivity
  generalize 256 ^ (7 - (i + 1)) = m at hpos ⊢
  rw [Nat.mod_mul, Nat.mod_mul, ← Nat.div_div_eq_div_mul, add_add_add_comm, ← mul_add,
    Nat.add_mul_div_left _ _ hpos, Nat.add_comm]

/-- A lane of the true sum. -/
theorem byte_add_toNat (a b : Word) {i : Nat} (hi : i < 8) :
    (byte (a + b) i).toNat = ((byte a i).toNat + (byte b i).toNat + carryInto a b i) % 256 := by
  have hwidth : 2 ^ 64 = 256 ^ (7 - i) * (256 * 256 ^ i) := by
    rw [← pow_succ', ← pow_add, show 7 - i + (i + 1) = 8 by omega]
    rfl
  rw [byte_toNat _ hi, byte_toNat a hi, byte_toNat b hi, carryInto, BitVec.toNat_add, hwidth,
    Nat.mod_mul_right_div_self, Nat.mod_mul_right_mod]
  have hpos : 0 < 256 ^ (7 - i) := by positivity
  generalize 256 ^ (7 - i) = m at hpos ⊢
  have hsplit : a.toNat + b.toNat = a.toNat % m + b.toNat % m + m * (a.toNat / m + b.toNat / m) := by
    rw [mul_add, add_add_add_comm, Nat.mod_add_div, Nat.mod_add_div]
  rw [hsplit, Nat.add_mul_div_left _ _ hpos]
  omega

/-- The two sums agree in a lane exactly when nothing is carried into it. -/
theorem byte_addb_eq_byte_add_iff (a b : Word) {i : Nat} (hi : i < 8) :
    byte (addb a b) i = byte (a + b) i ↔ carryInto a b i = 0 := by
  have hcarry := carryInto_le_one a b i
  rw [← BitVec.toNat_inj, byte_addb_toNat a b hi, byte_add_toNat a b hi]
  omega

/-- R107: a lane that overflows makes the two sums differ in the lane above it. -/
theorem byte_addb_ne_byte_add_of_overflow {a b : Word} {i : Nat} (hmin : 1 ≤ i) (hi : i < 8)
    (hover : 256 ≤ (byte a i).toNat + (byte b i).toNat) :
    byte (addb a b) (i - 1) ≠ byte (a + b) (i - 1) := by
  obtain ⟨j, rfl⟩ := Nat.exists_eq_add_of_le' hmin
  rw [Nat.add_sub_cancel, Ne, byte_addb_eq_byte_add_iff a b (by omega), carryInto_eq_of_lt a b (by omega)]
  omega

/-- From lane 7 up: where no lane below overflows, nothing is carried. -/
theorem carryInto_eq_zero {a b : Word}
    (hfits : ∀ i, 1 ≤ i → i < 8 → (byte a i).toNat + (byte b i).toNat < 256) {i : Nat} (hi : i ≤ 7) :
    carryInto a b i = 0 := by
  induction hi using Nat.decreasingInduction with
  | self => exact carryInto_seven a b
  | of_succ j hj ih =>
    have hlane := hfits (j + 1) (by omega) (by omega)
    rw [carryInto_eq_of_lt a b hj, ih]
    omega

/-- R107: the byte-lane add is true addition exactly when no lane but lane 0 overflows. -/
theorem addb_eq_add_iff (a b : Word) :
    addb a b = a + b ↔ ∀ i, 1 ≤ i → i < 8 → (byte a i).toNat + (byte b i).toNat < 256 := by
  constructor
  · intro heq i hmin hi
    by_contra hover
    exact byte_addb_ne_byte_add_of_overflow hmin hi (Nat.le_of_not_lt hover) (by rw [heq])
  · intro hfits
    exact word_eq_of_bytes fun i hi =>
      (byte_addb_eq_byte_add_iff a b hi).2 (carryInto_eq_zero hfits (Nat.le_of_lt_succ hi))

/-- Settles O29: the laws of the lanes, and true addition compared lane by lane. -/
theorem byteLaneLaws : Obligations.ByteLaneLaws := fun a b c =>
  ⟨addb_comm a b, addb_assoc a b c, addb_zero a, mulb_comm a b, mulb_ones_in_lanes a, mulb_zero a,
    addb_eq_add_iff a b, fun _ => byte_addb_ne_byte_add_of_overflow⟩

/-- Settles O27: `addb` of the operands lane by lane, its zero, the two sums evaluated, and true addition where no lane
overflows. -/
theorem addbAddsEachLaneAlone : Obligations.AddbAddsEachLaneAlone := by
  refine ⟨rfl, fun s cnt hlive => ⟨addb s.a s.b, exec_of_passed hlive rfl,
    fun i hi => byte_addb_toNat s.a s.b hi, fun ⟨ha, hb⟩ => ?_, fun ⟨ha, hb⟩ => ?_, fun h => ?_,
    fun hfits => (addb_eq_add_iff s.a s.b).2 fun i _ => hfits i⟩⟩
  · rw [ha, hb]
    decide
  · rw [ha, hb]
    decide
  · rw [h, addb_zero]

end Sys2Proof.Machine
end

section
/-! PROOF. The converter as arithmetic on the three fields of a binary64 pattern: `raw` is the double `1 + f * 2^-52` and
`cvt` the double `f * 2^-52`, with `f` the fraction field of the word. -/

namespace Sys2Proof.Machine

open Sys2Proof

theorem fractionField_lt (w : Word) : fractionField w < 2 ^ 52 := (w.extractLsb' 0 52).isLt

theorem exponentField_eq_div_mod (w : Word) : exponentField w = w.toNat / 2 ^ 52 % 2 ^ 11 := by
  rw [exponentField, BitVec.extractLsb'_toNat, Nat.shiftRight_eq_div_pow]

theorem signField_eq_div (w : Word) : signField w = w.toNat / 2 ^ 63 := by
  rw [signField, BitVec.extractLsb'_toNat, Nat.shiftRight_eq_div_pow]
  have hw := w.isLt
  omega

/-- R141: a pattern is its three fields, sign above exponent above fraction. -/
theorem toNat_eq_fields (p : Word) :
    p.toNat = signField p * 2 ^ 63 + exponentField p * 2 ^ 52 + fractionField p := by
  rw [signField_eq_div, exponentField_eq_div_mod, fractionField_eq_mod]
  omega

/-- R143: the mask keeps the fraction, and the exponent of 1.0 stands above it. -/
theorem raw_toNat (w : Word) : (raw w).toNat = 2 ^ 52 * 0x3FF + fractionField w := by
  have hmask : (w &&& mantMask).toNat = fractionField w := by
    rw [BitVec.toNat_and, fractionField_eq_mod]
    exact Nat.and_two_pow_sub_one_eq_mod w.toNat 52
  rw [raw, BitVec.toNat_or, hmask, Nat.or_comm, Nat.two_pow_add_eq_or_of_lt (fractionField_lt w)]
  rfl

/-- R144: the forced exponent makes every word a double in `[1, 2)`. -/
theorem f64_raw (w : Word) : f64 (raw w) = some (1 + (fractionField w : ℚ) / 2 ^ 52) := by
  have hw := fractionField_lt w
  have hs : signField (raw w) = 0 := by rw [signField_eq_div, raw_toNat]; omega
  have he : exponentField (raw w) = 1023 := by rw [exponentField_eq_div_mod, raw_toNat]; omega
  have hf : fractionField (raw w) = fractionField w := by rw [fractionField_eq_mod, raw_toNat]; omega
  rw [f64_of_normal (by omega) (by omega), hs, he, hf]
  norm_num

theorem cvt_of_fraction_zero {w : Word} (h : fractionField w = 0) : cvt w = 0#64 := by
  simp [cvt, h]

theorem cvt_of_fraction_ne_zero {w : Word} (h : fractionField w ≠ 0) :
    cvt w = (0#1 ++ BitVec.ofNat 11 (971 + (fractionField w).log2) ++
      BitVec.ofNat 52 (fractionField w * 2 ^ (52 - (fractionField w).log2)) : Word) := by
  simp [cvt, h]

/-- The highest 1 bit of a fraction that is not zero lies below bit 52. -/
theorem log2_fractionField_lt {w : Word} (h : fractionField w ≠ 0) : (fractionField w).log2 < 52 :=
  (Nat.log2_lt h).2 (fractionField_lt w)

/-- R145: the leading 1 of the fraction, moved to bit 52, is the one bit that the field drops. -/
theorem normalized_fraction_range {f : Nat} (h : f ≠ 0) (hk : f.log2 < 52) :
    2 ^ 52 ≤ f * 2 ^ (52 - f.log2) ∧ f * 2 ^ (52 - f.log2) < 2 ^ 53 := by
  have hlow := Nat.mul_le_mul_right (2 ^ (52 - f.log2)) (Nat.log2_self_le h)
  have hhigh := Nat.mul_lt_mul_of_pos_right (Nat.lt_log2_self (n := f)) (Nat.two_pow_pos (52 - f.log2))
  rw [← pow_add, show f.log2 + (52 - f.log2) = 52 by omega] at hlow
  rw [← pow_add, show f.log2 + 1 + (52 - f.log2) = 53 by omega] at hhigh
  exact ⟨hlow, hhigh⟩

/-- R145, R148: the fields of a converted word whose fraction is not zero. -/
theorem cvt_fields {w : Word} (h : fractionField w ≠ 0) :
    signField (cvt w) = 0 ∧ exponentField (cvt w) = 971 + (fractionField w).log2 ∧
      2 ^ 52 + fractionField (cvt w) = fractionField w * 2 ^ (52 - (fractionField w).log2) := by
  have hk := log2_fractionField_lt h
  obtain ⟨hlow, hhigh⟩ := normalized_fraction_range h hk
  rw [cvt_of_fraction_ne_zero h, signField_pattern, exponentField_pattern, fractionField_pattern,
    BitVec.toNat_ofNat _ 11, BitVec.toNat_ofNat _ 52]
  exact ⟨rfl, by omega, by omega⟩

/-- R145: the exponent of a converted word undoes the move of the leading 1. -/
theorem two_zpow_mul_two_pow {k : Nat} (hk : k < 52) :
    (2 : ℚ) ^ (((971 + k : ℕ) : ℤ) - 1023) * 2 ^ (52 - k) = 1 := by
  have hexp : ((971 + k : ℕ) : ℤ) - 1023 + ((52 - k : ℕ) : ℤ) = 0 := by omega
  rw [← zpow_natCast, ← zpow_add₀ two_ne_zero, hexp, zpow_zero]

/-- R145: `cvt` is exact. -/
theorem f64_cvt (w : Word) : f64 (cvt w) = some ((fractionField w : ℚ) / 2 ^ 52) := by
  by_cases h : fractionField w = 0
  · rw [cvt_of_fraction_zero h, f64_zero, h, Nat.cast_zero, zero_div]
  · have hk := log2_fractionField_lt h
    obtain ⟨hs, he, hf⟩ := cvt_fields h
    have hmantissa : 1 + (fractionField (cvt w) : ℚ) / 2 ^ 52 =
        2 ^ (52 - (fractionField w).log2) * (fractionField w / 2 ^ 52) := by
      rw [one_add_div (by positivity), mul_div_assoc', mul_comm]
      congr 1
      exact_mod_cast hf
    rw [f64_of_normal (by omega) (by omega), hs, he, hmantissa, pow_zero, one_mul, ← mul_assoc,
      two_zpow_mul_two_pow hk, one_mul]

/-- R129, R148: the greatest pattern is that of `1 - 2^-52`. -/
theorem cvt_toNat_le (w : Word) : (cvt w).toNat ≤ 0x3FEFFFFFFFFFFFFE := by
  by_cases h : fractionField w = 0
  · rw [cvt_of_fraction_zero h]
    decide
  · have hk := log2_fractionField_lt h
    obtain ⟨hs, he, hf⟩ := cvt_fields h
    have hlt := fractionField_lt (cvt w)
    have hw := fractionField_lt w
    rw [toNat_eq_fields, hs, he]
    by_cases htop : (fractionField w).log2 = 51
    · rw [htop] at hf ⊢
      omega
    · omega

end Sys2Proof.Machine
end

section
/-! PROOF. SEED and NEXT: their next states, the state update in closed form and in D00's eight steps, its linearity, and the
range of what NEXT returns. -/

namespace Sys2Proof.Machine

open Sys2Proof

/-- A command whose check names a violation takes that fault in a block without one. -/
theorem exec_of_violated {i : Instr} {s : State} {c : Cause} (hlive : s.fault = false)
    (hviolated : violationOf i s.seeded = some c) : exec i s = .next (s.raiseFault c) := by
  rw [exec_eq_whenLive, whenLive_of_live hlive, hviolated, checked_some]

/-- R121: SEED of an unseeded block loads its operands. -/
theorem exec_seed_of_unseeded {s : State} (hlive : s.fault = false) (hseeded : s.seeded = false) (cnt : Nat) :
    exec (.seed cnt) s = .next (s.loadSeed s.a s.b) :=
  exec_of_passed hlive (by simp [violationOf, hseeded])

/-- R125: NEXT of a seeded block advances the words and returns the double of the new ones. -/
theorem exec_next_of_seeded {s : State} (hlive : s.fault = false) (hseeded : s.seeded = true) (cnt : Nat) :
    exec (.next cnt) s = .next { s with
      state0 := s.state1
      state1 := (advance s.state0 s.state1).2
      result := some (outputOf s.state1 (advance s.state0 s.state1).2) } :=
  exec_of_passed hlive (by simp [violationOf, hseeded])

/-- R127: the left shift over integers. -/
theorem shl64_eq_ofNat (w : Word) (n : Nat) : shl64 w n = BitVec.ofNat 64 (w.toNat * 2 ^ n) :=
  BitVec.eq_of_toNat_eq (by rw [shl64_toNat, BitVec.toNat_ofNat])

/-- R127: the right shift over integers. -/
theorem shr64_eq_ofNat (w : Word) (n : Nat) : shr64 w n = BitVec.ofNat 64 (w.toNat / 2 ^ n) := by
  rw [← shr64_toNat, BitVec.ofNat_toNat, BitVec.setWidth_eq]

theorem xor_xor_xor_comm (a b c d : Word) : a ^^^ b ^^^ (c ^^^ d) = a ^^^ c ^^^ (b ^^^ d) := by
  ac_rfl

theorem shl64_xor (x y : Word) (n : Nat) : shl64 (x ^^^ y) n = shl64 x n ^^^ shl64 y n :=
  BitVec.shiftLeft_xor_distrib x y n

theorem shr64_xor (x y : Word) (n : Nat) : shr64 (x ^^^ y) n = shr64 x n ^^^ shr64 y n :=
  BitVec.ushiftRight_xor_distrib x y n

/-- R125: the shift left by 23 and the shift right by 17, each combined with what it shifts: all that the update does to
the old `state0`. -/
def scramble (x : Word) : Word :=
  let t := shl64 x shA ^^^ x
  shr64 t shB ^^^ t

theorem advance_eq (x0 x1 : Word) : advance x0 x1 = (x1, scramble x0 ^^^ x1 ^^^ shr64 x1 shC) := rfl

theorem scramble_zero : scramble 0#64 = 0#64 := by decide

theorem scramble_xor (x y : Word) : scramble (x ^^^ y) = scramble x ^^^ scramble y := by
  simp only [scramble, shl64_xor, shr64_xor, xor_xor_xor_comm]

/-- R127: `scramble` over integers. -/
theorem scramble_eq_ofNat (x : Word) :
    let A := x ^^^ BitVec.ofNat 64 (x.toNat * 2 ^ 23)
    scramble x = A ^^^ BitVec.ofNat 64 (A.toNat / 2 ^ 17) := by
  simp only [scramble, shl64_eq_ofNat, shr64_eq_ofNat, shA, shB, BitVec.xor_comm]

theorem advance_zero_left (x : Word) : advance 0#64 x = (x, x ^^^ shr64 x shC) := by
  rw [advance_eq, scramble_zero, BitVec.zero_xor]

theorem advance_snd_xor (x0 x1 y0 y1 : Word) :
    (advance (x0 ^^^ y0) (x1 ^^^ y1)).2 = (advance x0 x1).2 ^^^ (advance y0 y1).2 := by
  simp only [advance_eq, scramble_xor, shr64_xor, xor_xor_xor_comm]

/-- Settles O31: the check passes unseeded, and names RESEED seeded. -/
theorem seedLoadsTheStateWordsOnce : Obligations.SeedLoadsTheStateWordsOnce := by
  refine ⟨rfl, fun s cnt hlive => ⟨fun hseeded => exec_seed_of_unseeded hlive hseeded cnt, fun hseeded => ?_⟩⟩
  have hreseed : violationOf (.seed cnt) s.seeded = some .reseed := by simp [violationOf, hseeded]
  exact exec_of_violated hlive hreseed

/-- Settles O36: each part of the update is linear, and `scramble` maps zero to zero. -/
theorem stateUpdateIsLinear : Obligations.StateUpdateIsLinear := by
  refine ⟨fun _ _ => rfl, advance_snd_xor, advance_zero_left 0#64, fun x => ?_⟩
  rw [advance_zero_left, shr64_eq_ofNat, shC]

/-- Settles O35: the update maps zero words to zero words, whose double is evaluated. -/
theorem allZeroSeedIsAFixedPoint : Obligations.AllZeroSeedIsAFixedPoint := by
  refine fun s cnt hlive => ⟨fun hseeded ha hb => ?_, fun hseeded h0 h1 => ?_⟩
  · have hseed := exec_seed_of_unseeded hlive hseeded cnt
    rw [ha, hb] at hseed
    exact hseed
  · have hout : outputOf 0#64 0#64 = 0#64 := by decide
    have hadv : advance 0#64 0#64 = (0#64, 0#64) := advance_zero_left 0#64
    rw [exec_next_of_seeded hlive hseeded, h0, h1, hadv, hout]

/-- Settles O33: the update over integers, and the converter on the sum of the new words. -/
theorem nextFollowsTheClosedForm : Obligations.NextFollowsTheClosedForm := by
  intro s cnt hlive hseeded
  refine ⟨_, _, (advance s.state0 s.state1).2, _, rfl, rfl, ?_, ?_, exec_next_of_seeded hlive hseeded cnt⟩
  · rw [advance_eq, scramble_eq_ofNat, shr64_eq_ofNat, shC]
  · rw [outputOf, f64_cvt, fractionField_eq_mod]

/-- Settles O34: steps 1 to 6 come to the update by evaluation, and step 7 to `raw`, which `cvt` reduces by 1. -/
theorem nextAgreesWithTheEightSteps : Obligations.NextAgreesWithTheEightSteps := by
  intro s cnt s0 s1 c tmp hlive hseeded
  refine ⟨_, _, f64_raw (addb s.state1 (advance s.state0 s.state1).2), ?_, rfl,
    exec_next_of_seeded hlive hseeded cnt⟩
  rw [outputOf, f64_cvt, add_sub_cancel_left]

/-- Settles O37: `f` is the fraction field of the sum of the new words. -/
theorem nextReturnsADoubleInTheUnitInterval : Obligations.NextReturnsADoubleInTheUnitInterval := by
  intro s cnt hlive hseeded
  have hf := fractionField_lt (addb s.state1 (advance s.state0 s.state1).2)
  refine ⟨_, _, _, exec_next_of_seeded hlive hseeded cnt, rfl, Nat.le_sub_one_of_lt hf, f64_cvt _,
    by positivity, ?_, cvt_toNat_le _⟩
  rw [div_lt_one (by positivity)]
  exact_mod_cast hf

end Sys2Proof.Machine
end

section
/-! PROOF. Runs of commands alone: a fault stays to the end, so in a run that goes right every command has its effect, and of
those effects only that of NEXT writes the state words. -/

namespace Sys2Proof.Machine

open Sys2Proof

/-- No step stops the machine. -/
theorem step_completes (s : State) : ∃ t, step s = .next t := by
  match hp : s.pending with
  | [] => exact ⟨s, step_of_idle hp⟩
  | .reset :: rest => exact ⟨_, step_of_reset hp⟩
  | .command cmd a b :: rest =>
    rw [step_of_command hp]
    match hd : decode cmd with
    | .ok i =>
      rw [perform_of_decode_ok hd]
      exact exec_completes i _
    | .error e =>
      rw [perform_of_decode_error hd]
      obtain ⟨-, h⟩ | ⟨-, h⟩ := whenLive_cases (s.present a b rest) fun t => t.raiseFault .reservedOpcode
      · exact ⟨_, h⟩
      · exact ⟨_, h⟩

/-- Everything a presented command word can do: nothing in a faulted block, a fault, or the effect of its command. -/
theorem step_command_cases {s t : State} {cmd : CmdWord} {a b : Word} {rest : List Request}
    (hp : s.pending = .command cmd a b :: rest) (h : step s = .next t) :
    (s.fault = true ∧ t = (s.present a b rest).noValue) ∨
      (s.fault = false ∧ ∃ c, t = (s.present a b rest).raiseFault c) ∨
      (s.fault = false ∧ ∃ i, decode cmd = .ok i ∧ violationOf i s.seeded = none ∧
        t = effectOf i (s.present a b rest)) := by
  rw [step_of_command hp] at h
  match hd : decode cmd with
  | .ok i =>
    rw [perform_of_decode_ok hd] at h
    obtain hfaulted | ⟨hlive, c, -, ht⟩ | ⟨hlive, hpass, ht⟩ := exec_next_cases h
    · exact .inl hfaulted
    · exact .inr (.inl ⟨hlive, c, ht⟩)
    · exact .inr (.inr ⟨hlive, i, rfl, hpass, ht⟩)
  | .error e =>
    rw [perform_of_decode_error hd] at h
    obtain hfaulted | ⟨hlive, ht⟩ := takeReserved_next_cases h
    · exact .inl hfaulted
    · exact .inr (.inl ⟨hlive, _, ht⟩)

/-- A request other than a reset is a command. -/
theorem Request.eq_command {r : Request} (h : r ≠ .reset) : ∃ cmd a b, r = .command cmd a b := by
  cases r with
  | reset => exact absurd rfl h
  | command cmd a b => exact ⟨cmd, a, b, rfl⟩

/-- R166: without a reset a fault stays to the end of the run. -/
theorem run_keeps_fault {rs : List Request} {s t : State} (hf : s.fault = true) (hp : s.pending = rs)
    (hcmds : ∀ r ∈ rs, r ≠ .reset) (hrun : Host.Core.run Sys2Proof.core rs.length s = .next t) :
    t.fault = true := by
  induction rs generalizing s with
  | nil =>
    cases hrun
    exact hf
  | cons r rest ih =>
    obtain ⟨hr, hrest⟩ := List.forall_mem_cons.1 hcmds
    obtain ⟨cmd, a, b, rfl⟩ := Request.eq_command hr
    obtain ⟨u, hstep⟩ := step_completes s
    rw [List.length_cons, run_succ hstep] at hrun
    obtain ⟨-, rfl⟩ | ⟨hlive, -⟩ | ⟨hlive, -⟩ := step_command_cases hp hstep
    · exact ih (s := (s.present a b rest).noValue) hf rfl hrest hrun
    · cases hf.symm.trans hlive
    · cases hf.symm.trans hlive

/-- A presented command whose check passes in a block without a fault has its effect. -/
theorem step_of_passed {s : State} {cmd : CmdWord} {a b : Word} {rest : List Request} {i : Instr}
    (hp : s.pending = .command cmd a b :: rest) (hlive : s.fault = false) (hd : decode cmd = .ok i)
    (hpass : violationOf i s.seeded = none) : step s = .next (effectOf i (s.present a b rest)) := by
  rw [step_of_command hp, perform_of_decode_ok hd]
  exact exec_of_passed hlive hpass

@[simp] theorem effectOf_pending (i : Instr) (s : State) : (effectOf i s).pending = s.pending := by
  cases i <;> rfl

/-- Every command but SEED returns a value. -/
theorem effectOf_result {i : Instr} (hseed : ∀ n, i ≠ .seed n) (s : State) :
    ∃ v, (effectOf i s).result = some v := by
  cases i with
  | seed n => exact absurd rfl (hseed n)
  | _ => exact ⟨_, rfl⟩

/-- R164: SEED does not pass in a seeded block. -/
theorem ne_seed_of_passed {i : Instr} (hpass : violationOf i true = none) (n : Nat) : i ≠ .seed n := by
  rintro rfl
  cases hpass

theorem isNext_of_decode {cmd : CmdWord} {i : Instr} (hd : decode cmd = .ok i) (a b : Word) :
    isNext (.command cmd a b) = true ↔ ∃ n, i = .next n := by
  obtain ⟨hop, -⟩ := decode_eq_ok_iff.1 hd
  rw [isNext, hop, beq_iff_eq]
  cases i <;> simp [opcode]

/-- R131: the stream begins with the double of the advanced words and goes on as their stream. -/
theorem stream_succ (w0 w1 : Word) (n : Nat) :
    (List.range (n + 1)).map (fun k => some (streamWord w0 w1 k)) =
      some (outputOf (advance w0 w1).1 (advance w0 w1).2) ::
        (List.range n).map (fun k => some (streamWord (advance w0 w1).1 (advance w0 w1).2 k)) := by
  rw [List.range_succ_eq_map, List.map_cons, List.map_map]
  rfl

/-- R131: from a seeded block, a run of commands that ends without a fault returns the stream of the two state words at its
NEXTs and leaves the words after as many. -/
theorem run_follows_stream {rs : List Request} {s t : State} (hseeded : s.seeded = true) (hp : s.pending = rs)
    (hcmds : ∀ r ∈ rs, r ≠ .reset) (hrun : Host.Core.run Sys2Proof.core rs.length s = .next t)
    (hlive : t.fault = false) :
    nextResults rs.length s =
        (List.range (rs.countP isNext)).map (fun k => some (streamWord s.state0 s.state1 k)) ∧
      (t.state0, t.state1) = wordsAfter (rs.countP isNext) (s.state0, s.state1) := by
  induction rs generalizing s with
  | nil =>
    cases hrun
    exact ⟨rfl, rfl⟩
  | cons r rest ih =>
    obtain ⟨hr, hrest⟩ := List.forall_mem_cons.1 hcmds
    obtain ⟨cmd, a, b, rfl⟩ := Request.eq_command hr
    obtain ⟨u, hstep⟩ := step_completes s
    have hrunRest : Host.Core.run Sys2Proof.core rest.length u = .next t := by
      rwa [List.length_cons, run_succ hstep] at hrun
    obtain ⟨hf, -⟩ | ⟨-, c, rfl⟩ | ⟨-, i, hd, hpass, rfl⟩ := step_command_cases hp hstep
    · cases (run_keeps_fault hf hp hcmds hrun).symm.trans hlive
    · cases (run_keeps_fault (State.raiseFault_fault _ c) (rs := rest) rfl hrest hrunRest).symm.trans hlive
    rw [hseeded] at hpass
    have hseed := ne_seed_of_passed hpass
    obtain ⟨hresults, hwords⟩ := ih (by rw [effectOf_seeded hseed]; exact hseeded) (by simp) hrest hrunRest
    rw [List.length_cons, nextResults_succ hstep, hp, List.head?_cons, Option.any_some, hresults, hwords]
    by_cases hnext : ∃ n, i = .next n
    · have hisNext := (isNext_of_decode hd a b).2 hnext
      obtain ⟨n, rfl⟩ := hnext
      rw [List.countP_cons_of_pos hisNext, stream_succ, if_pos hisNext]
      exact ⟨rfl, rfl⟩
    · have hisNext : ¬ isNext (.command cmd a b) = true := hnext ∘ (isNext_of_decode hd a b).1
      obtain ⟨f, hf⟩ := effectOf_pure hseed (not_exists.1 hnext)
      rw [List.countP_cons_of_neg hisNext, if_neg hisNext, hf]
      exact ⟨rfl, rfl⟩

/-- A request that a seeded block without a fault answers with a value: a command other than SEED whose check passes. -/
def ReturnsValue (r : Request) : Prop :=
  ∃ cmd a b i, r = .command cmd a b ∧ decode cmd = .ok i ∧ violationOf i true = none

/-- R166, R202: a run of such requests goes right, and each returns its value. -/
theorem run_of_returnsValue {rs : List Request} {s : State} (hseeded : s.seeded = true) (hlive : s.fault = false)
    (hp : s.pending = rs) (hvalue : ∀ r ∈ rs, ReturnsValue r) :
    ∃ t, Host.Core.run Sys2Proof.core rs.length s = .next t ∧ t.fault = false ∧
      (runResults rs.length s).length = rs.length := by
  induction rs generalizing s with
  | nil => exact ⟨s, rfl, hlive, rfl⟩
  | cons r rest ih =>
    obtain ⟨⟨cmd, a, b, i, rfl, hd, hpass⟩, hrest⟩ := List.forall_mem_cons.1 hvalue
    have hseed := ne_seed_of_passed hpass
    rw [← hseeded] at hpass
    have hstep := step_of_passed hp hlive hd hpass
    obtain ⟨v, hv⟩ := effectOf_result hseed (s.present a b rest)
    obtain ⟨t, hrun, ht, hlength⟩ := ih (s := effectOf i (s.present a b rest))
      (by rw [effectOf_seeded hseed]; exact hseeded) (by simpa using hlive) (by simp) hrest
    refine ⟨t, by rwa [List.length_cons, run_succ hstep], ht, ?_⟩
    rw [List.length_cons, runResults_succ hstep, hp, List.head?_cons, Option.any_some, hv, List.length_append,
      hlength]
    simp [isCommand, Nat.add_comm]

/-- R62, R80, R163: a command word with an opcode up to 11 other than that of SEED, and a legal count where it is read. -/
theorem returnsValue_of_fields {cmd : CmdWord} (hop : cmd.toNat / 128 ≤ 11) (hseed : cmd.toNat / 128 ≠ 9)
    (hcnt : cmd.toNat / 128 ≤ 1 → 1 ≤ cmd.toNat % 128 ∧ cmd.toNat % 128 ≤ 71) (a b : Word) :
    ReturnsValue (.command cmd a b) := by
  rw [← opField_eq_div] at hop hseed hcnt
  rw [← cntField_eq_mod] at hcnt
  obtain ⟨i, hd⟩ := (opField_le_iff cmd).1 hop
  refine ⟨cmd, a, b, i, rfl, hd, ?_⟩
  obtain ⟨hopcode, hcount⟩ := decode_eq_ok_iff.1 hd
  rw [hopcode, hcount] at hcnt
  rw [hopcode] at hseed
  cases i with
  | shl cnt | shr cnt => exact (checkCount_eq_none_iff cnt).2 (hcnt (by simp [opcode]))
  | seed n => exact absurd rfl hseed
  | _ => rfl

/-- Settles O38: a run of commands alone has gone right when it ends without a fault. -/
theorem streamDependsOnTheSeedAndTheCallCount : Obligations.StreamDependsOnTheSeedAndTheCallCount := by
  constructor
  · intro s t hseeded hcmds hright
    obtain ⟨hrun, hlive⟩ := (goneRight_of_commands hcmds).1 hright
    exact run_follows_stream hseeded rfl hcmds hrun hlive
  · intro s hseeded hlive hreqs
    have hvalue : ∀ r ∈ s.pending, ReturnsValue r := by
      intro r hr
      obtain ⟨cmd, a, b, rfl, hop, hseed, hcnt⟩ := hreqs r hr
      exact returnsValue_of_fields hop hseed hcnt a b
    have hcmds : ∀ r ∈ s.pending, r ≠ .reset := by
      rintro r hr rfl
      obtain ⟨_, _, _, _, hreset, -⟩ := hvalue .reset hr
      cases hreset
    obtain ⟨t, hrun, ht, hlength⟩ := run_of_returnsValue hseeded hlive rfl hvalue
    exact ⟨t, (goneRight_of_commands hcmds).2 ⟨hrun, ht⟩, ht, hlength⟩

end Sys2Proof.Machine
end

section
/-! PROOF. The converter's own statements: `raw` and `cvt` follow from the fraction field alone, and `cvt` tells any two
fraction fields apart; the fraction field is the low four bits of lane 1 and the lanes below it. -/

namespace Sys2Proof.Machine

open Sys2Proof

/-- Settles O40: `raw` over integers. -/
theorem rawForcesTheExponent : Obligations.RawForcesTheExponent := fun w => by
  rw [raw_toNat, fractionField_eq_mod, Nat.mul_comm]

/-- Settles O39: both patterns have the value that the fraction field gives them. -/
theorem converterSubtractsOneExactly : Obligations.ConverterSubtractsOneExactly := by
  intro w
  rw [← fractionField_eq_mod]
  have hunit : (fractionField w : ℚ) / 2 ^ 52 < 1 := by
    rw [div_lt_one (by positivity)]
    exact_mod_cast fractionField_lt w
  refine ⟨_, rfl, le_add_of_nonneg_right (by positivity), by linarith, f64_raw w, ?_⟩
  rw [add_sub_cancel_left, f64_cvt]

/-- R143, R147: the converter depends on the fraction field and, being exact, tells any two apart. -/
theorem cvt_eq_cvt_iff (x y : Word) : cvt x = cvt y ↔ fractionField x = fractionField y := by
  constructor
  · intro h
    have hvalue : (fractionField x : ℚ) / 2 ^ 52 = fractionField y / 2 ^ 52 :=
      Option.some_inj.1 (by rw [← f64_cvt, h, f64_cvt])
    exact Nat.cast_injective ((div_left_inj' (by positivity)).1 hvalue)
  · intro h
    rw [cvt, cvt, h]

/-- R146: words whose low 52 bits agree convert alike. -/
theorem cvt_eq_of_low_bits {x y : Word} (h : x.toNat % 2 ^ 52 = y.toNat % 2 ^ 52) : cvt x = cvt y := by
  rwa [cvt_eq_cvt_iff, fractionField_eq_mod, fractionField_eq_mod]

/-- R146: CVT of a block without a fault returns the conversion of `a`. -/
theorem exec_cvt_of_live {s : State} (hlive : s.fault = false) (cnt : Nat) :
    exec (.cvt cnt) s = .next { s with result := some (cvt s.a) } :=
  exec_of_passed hlive rfl

/-- Settles O41: `cvt` is exact on the low 52 bits of `a`; three corner cases are evaluated. -/
theorem cvtReturnsTheConversion : Obligations.CvtReturnsTheConversion := by
  refine ⟨rfl, fun s cnt hlive => ⟨cvt s.a, exec_cvt_of_live hlive cnt, ?_, fun hzero => ?_, fun hones => ?_,
    fun ha => ?_, fun ha => ?_, fun x hx => ?_⟩⟩
  · rw [f64_cvt, fractionField_eq_mod]
  · exact cvt_of_fraction_zero (by rw [fractionField_eq_mod, hzero])
  · have hmax : cvt 0x000FFFFFFFFFFFFF#64 = 0x3FEFFFFFFFFFFFFE#64 := by decide
    rw [← hmax]
    exact cvt_eq_of_low_bits hones
  · rw [ha]
    decide
  · rw [ha]
    decide
  · rw [← cvt_eq_of_low_bits hx]
    exact exec_cvt_of_live (s := { s with a := x }) hlive cnt

/-- R148: the place that the leading 1 moves up by is how many low bits of the converted fraction are 0. -/
theorem two_pow_dvd_fractionField_cvt {w : Word} (h : fractionField w ≠ 0) :
    2 ^ (52 - (fractionField w).log2) ∣ fractionField (cvt w) := by
  obtain ⟨-, -, hf⟩ := cvt_fields h
  rw [← Nat.dvd_add_right (pow_dvd_pow 2 (Nat.sub_le 52 _)), hf]
  exact Nat.dvd_mul_left _ _

/-- Settles O42: a fraction field of 0 converts to +0.0, any other to the fields of R145; each field occurs. -/
theorem converterResultsAreNormalOrZero : Obligations.ConverterResultsAreNormalOrZero := by
  refine ⟨fun w => ?_, fun f hf => ⟨BitVec.ofNat 64 f, ?_⟩⟩
  · by_cases h : fractionField w = 0
    · exact .inl (cvt_of_fraction_zero h)
    · have hk := log2_fractionField_lt h
      obtain ⟨hs, he, -⟩ := cvt_fields h
      refine .inr ⟨hs, by omega, by omega, ?_, ?_, cvt_toNat_le w⟩
      · have hshift : 1023 - exponentField (cvt w) = 52 - (fractionField w).log2 := by omega
        rw [hshift]
        exact Nat.mod_eq_zero_of_dvd (two_pow_dvd_fractionField_cvt h)
      · rw [toNat_eq_fields, hs, he]
        omega
  · have hfield : fractionField (BitVec.ofNat 64 f) = f := by
      rw [fractionField_eq_mod, BitVec.toNat_ofNat]
      omega
    rw [f64_cvt, hfield]

/-- R151: the fraction field is the low four bits of lane 1 and the lanes below it. -/
theorem fractionField_eq_sum_lanes (w : Word) :
    fractionField w = (byte w 1).toNat % 16 * 2 ^ 48 + (byte w 2).toNat * 2 ^ 40 + (byte w 3).toNat * 2 ^ 32 +
      (byte w 4).toNat * 2 ^ 24 + (byte w 5).toNat * 2 ^ 16 + (byte w 6).toNat * 2 ^ 8 + (byte w 7).toNat := by
  rw [fractionField_eq_mod]
  simp only [byte_toNat, Nat.reduceLT]
  omega

/-- R151: lanes 2 to 7 read back from the fraction field. -/
theorem byte_toNat_eq_fractionField_div {i : Nat} (hmin : 2 ≤ i) (hi : i < 8) (w : Word) :
    (byte w i).toNat = fractionField w / 256 ^ (7 - i) % 256 := by
  have hwidth : 2 ^ 52 = 256 ^ (7 - i) * (256 * (256 ^ (i - 2) * 16)) := by
    rw [← mul_assoc, ← mul_assoc, ← pow_succ, ← pow_add, show 7 - i + 1 + (i - 2) = 6 by omega]
    rfl
  rw [fractionField_eq_mod, hwidth, Nat.mod_mul_right_div_self, Nat.mod_mul_right_mod, byte_toNat w hi]

/-- R151: the low four bits of lane 1 read back from the fraction field. -/
theorem byte_one_mod_eq_fractionField_div (w : Word) : (byte w 1).toNat % 16 = fractionField w / 2 ^ 48 := by
  rw [fractionField_eq_mod, byte_toNat w (by decide)]
  omega

/-- R151: two fraction fields are equal exactly when their lanes are. -/
theorem fractionField_eq_iff_lanes (x y : Word) :
    fractionField x = fractionField y ↔
      (∀ i, 2 ≤ i → i < 8 → byte x i = byte y i) ∧ (byte x 1).toNat % 16 = (byte y 1).toNat % 16 := by
  constructor
  · intro h
    refine ⟨fun i hmin hi => BitVec.eq_of_toNat_eq ?_, ?_⟩
    · rw [byte_toNat_eq_fractionField_div hmin hi, byte_toNat_eq_fractionField_div hmin hi, h]
    · rw [byte_one_mod_eq_fractionField_div, byte_one_mod_eq_fractionField_div, h]
  · rintro ⟨hlanes, hnibble⟩
    simp only [fractionField_eq_sum_lanes, hnibble, hlanes, Nat.reduceLT, Nat.reduceLeDiff]

/-- Settles O43: the converter reads the fraction field alone, and that field is those lanes. -/
theorem converterReadsExactlyTheLowLanes : Obligations.ConverterReadsExactlyTheLowLanes := fun x y =>
  (cvt_eq_cvt_iff x y).trans (fractionField_eq_iff_lanes x y)

end Sys2Proof.Machine
end

section
/-! PROOF. Faults: which violation a presented command word is, if any, that the step takes exactly it, and the faulted
block, which only a reset leaves. -/

namespace Sys2Proof.Machine

open Sys2Proof

/-- Settles O4, by the step's case for an empty list of requests. -/
theorem idleStepHoldsTheState : Obligations.IdleStepHoldsTheState := fun _ => step_of_idle

/-- Settles O19: the check of each names the violation. -/
theorem shiftCountZeroFaults : Obligations.ShiftCountZeroFaults := fun _ hlive =>
  ⟨exec_of_violated (i := .shl 0) hlive checkCount_zero, exec_of_violated (i := .shr 0) hlive checkCount_zero⟩

/-- Settles O20: a count of 72 or more fails the check; the shifts by 64 to 71 are O17's and O18's. -/
theorem shiftCountTooWideFaults : Obligations.ShiftCountTooWideFaults := by
  intro s cnt hlive
  refine ⟨fun hwide => ⟨?_, ?_⟩, fun hmin hmax => ⟨?_, ?_⟩⟩
  · exact exec_of_violated (i := .shl cnt) hlive (checkCount_of_wide hwide)
  · exact exec_of_violated (i := .shr cnt) hlive (checkCount_of_wide hwide)
  · obtain ⟨r, hexec, -, -, hzero⟩ := shlReturnsTheLogicalLeftShift s cnt hlive (by omega) hmax
    rw [hexec, hzero hmin]
  · obtain ⟨r, hexec, -, -, hzero⟩ := shrReturnsTheLogicalRightShift s cnt hlive (by omega) hmax
    rw [hexec, hzero hmin]

/-- Settles O32: the check of NEXT names NOT_SEEDED in an unseeded block. -/
theorem nextUnseededFaults : Obligations.NextUnseededFaults := by
  intro s cnt hlive hseeded
  have hnotSeeded : violationOf (.next cnt) s.seeded = some .notSeeded := by simp [violationOf, hseeded]
  exact exec_of_violated hlive hnotSeeded

variable {s : State} {cmd : CmdWord} {a b : Word} {rest : List Request}

/-- The violation a presented command word is, if any: a reserved opcode, or what the check of its command names (R160,
R170). -/
def wordViolation (cmd : CmdWord) (seeded : Bool) : Option Cause :=
  match decode cmd with
  | .ok i => violationOf i seeded
  | .error _ => some .reservedOpcode

theorem wordViolation_of_decode_ok {i : Instr} (hd : decode cmd = .ok i) (seeded : Bool) :
    wordViolation cmd seeded = violationOf i seeded := by
  rw [wordViolation, hd]

theorem wordViolation_of_decode_error {e : DecodeError} (hd : decode cmd = .error e) (seeded : Bool) :
    wordViolation cmd seeded = some .reservedOpcode := by
  rw [wordViolation, hd]

/-- R68: the reserved words are those from 0x600 on. -/
theorem decode_error_iff (cmd : CmdWord) : (∃ e, decode cmd = .error e) ↔ 0x600 ≤ cmd.toNat := by
  have hok : (∃ i, decode cmd = .ok i) ↔ ¬ 0x600 ≤ cmd.toNat := by
    rw [← opField_le_iff, opField_eq_div]
    omega
  cases hd : decode cmd with
  | ok i => simpa [hd] using hok
  | error e => simpa [hd] using hok

/-- R165: a word that is a violation is taken as that fault. -/
theorem step_of_violated {c : Cause} (hp : s.pending = .command cmd a b :: rest) (hlive : s.fault = false)
    (hviolated : wordViolation cmd s.seeded = some c) :
    step s = .next ((s.present a b rest).raiseFault c) := by
  rw [step_of_command hp]
  cases hd : decode cmd with
  | ok i =>
    rw [wordViolation_of_decode_ok hd] at hviolated
    rw [perform_of_decode_ok hd]
    exact exec_of_violated hlive hviolated
  | error e =>
    rw [wordViolation_of_decode_error hd] at hviolated
    cases hviolated
    rw [perform_of_decode_error hd]
    exact takeReserved_of_live hlive

/-- R169: a word that is no violation has the effect of its command. -/
theorem step_of_not_violated (hp : s.pending = .command cmd a b :: rest) (hlive : s.fault = false)
    (hpass : wordViolation cmd s.seeded = none) :
    ∃ i, step s = .next (effectOf i (s.present a b rest)) := by
  cases hd : decode cmd with
  | ok i =>
    rw [wordViolation_of_decode_ok hd] at hpass
    exact ⟨i, step_of_passed hp hlive hd hpass⟩
  | error e =>
    rw [wordViolation_of_decode_error hd] at hpass
    cases hpass

/-- The flags after a presented word are those of its violation. -/
theorem step_fault_flags (hp : s.pending = .command cmd a b :: rest) (hlive : s.fault = false) :
    ∃ t, step s = .next t ∧ t.fault = (wordViolation cmd s.seeded).isSome ∧
      t.fcause = (wordViolation cmd s.seeded).elim s.fcause Cause.code := by
  cases hv : wordViolation cmd s.seeded with
  | some c => exact ⟨_, step_of_violated hp hlive hv, rfl, rfl⟩
  | none =>
    obtain ⟨i, hstep⟩ := step_of_not_violated hp hlive hv
    exact ⟨_, hstep, by simpa using hlive, by simp⟩

/-- R80, R160: which of the two count violations a count is. -/
theorem checkCount_eq_some_iff (cnt : Nat) (c : Cause) :
    checkCount cnt = some c ↔ (cnt = 0 ∧ c = .shiftCountZero) ∨ (72 ≤ cnt ∧ c = .shiftCountTooWide) := by
  constructor
  · intro h
    have hfails : ¬ (1 ≤ cnt ∧ cnt ≤ 71) := fun hlegal => by
      cases h.symm.trans ((checkCount_eq_none_iff cnt).2 hlegal)
    obtain rfl | hwide : cnt = 0 ∨ 72 ≤ cnt := by omega
    · cases h
      exact .inl ⟨rfl, rfl⟩
    · cases h.symm.trans (checkCount_of_wide hwide)
      exact .inr ⟨hwide, rfl⟩
  · rintro (⟨rfl, rfl⟩ | ⟨hwide, rfl⟩)
    · exact checkCount_zero
    · exact checkCount_of_wide hwide

/-- The rows of R160's table: the words, and the value of `seeded`, for which a cause is listed. -/
def Listed (cmd : CmdWord) (seeded : Bool) : Cause → Prop
  | .shiftCountZero => decode cmd = .ok (.shl 0) ∨ decode cmd = .ok (.shr 0)
  | .shiftCountTooWide => ∃ n, 72 ≤ n ∧ (decode cmd = .ok (.shl n) ∨ decode cmd = .ok (.shr n))
  | .reservedOpcode => 0x600 ≤ cmd.toNat
  | .notSeeded => seeded = false ∧ ∃ n, decode cmd = .ok (.next n)
  | .reseed => seeded = true ∧ ∃ n, decode cmd = .ok (.seed n)

/-- A word that stands for a command is no reserved word, and each check names the cause of its row. -/
theorem violationOf_eq_some_iff {i : Instr} (hd : decode cmd = .ok i) (seeded : Bool) (c : Cause) :
    violationOf i seeded = some c ↔ Listed cmd seeded c := by
  have hcommand : ¬ 0x600 ≤ cmd.toNat := by simp [← decode_error_iff, hd]
  cases i with
  | shl cnt | shr cnt => cases c <;> simp [violationOf, checkCount_eq_some_iff, Listed, hd, hcommand]
  | seed _ | next _ => cases c <;> cases seeded <;> simp [violationOf, Listed, hd, hcommand]
  | _ => cases c <;> simp [violationOf, Listed, hd, hcommand]

/-- R160: the violation a word is, is the one the table lists for it. -/
theorem wordViolation_eq_some_iff (cmd : CmdWord) (seeded : Bool) (c : Cause) :
    wordViolation cmd seeded = some c ↔ Listed cmd seeded c := by
  cases hd : decode cmd with
  | ok i =>
    rw [wordViolation_of_decode_ok hd]
    exact violationOf_eq_some_iff hd seeded c
  | error e =>
    have hreserved : 0x600 ≤ cmd.toNat := (decode_error_iff cmd).1 ⟨e, hd⟩
    rw [wordViolation_of_decode_error hd]
    cases c <;> simp [Listed, hd, hreserved]

/-- R160: the code recorded for a violation, 0 for none, tells which it was. -/
theorem recordedCode_eq_iff (v : Option Cause) (c : Cause) : v.elim 0#3 Cause.code = c.code ↔ v = some c := by
  cases v with
  | none => cases c <;> decide
  | some d => cases c <;> cases d <;> decide

theorem Cause.one_le_code (c : Cause) : 1 ≤ c.code.toNat := by
  cases c <;> decide

/-- U9: codes 6 and 7 are no cause's. -/
theorem recordedCode_le (v : Option Cause) : (v.elim 0#3 Cause.code).toNat ≤ 5 := by
  cases v with
  | none => decide
  | some c => exact c.code_range.2

/-- Settles O45: the word's violation gives both flags, and R160's table gives the word's violation. -/
theorem faultCausesAreExactlyThoseListed : Obligations.FaultCausesAreExactlyThoseListed := by
  intro s cmd a b rest hp hlive hinv
  obtain ⟨t, hstep, hfault, hcause⟩ := step_fault_flags hp hlive
  rw [(State.inv_iff_of_live hlive).1 hinv] at hcause
  have hlisted (c : Cause) : t.fcause = c.code ↔ Listed cmd s.seeded c := by
    rw [hcause, recordedCode_eq_iff, wordViolation_eq_some_iff]
  have hle : t.fcause.toNat ≤ 5 := hcause ▸ recordedCode_le _
  refine ⟨t, hstep, ?_, hlisted .shiftCountZero, hlisted .shiftCountTooWide, hlisted .reservedOpcode,
    hlisted .notSeeded, hlisted .reseed, ?_, ?_⟩
  · rw [hcause, hfault]
    cases wordViolation cmd s.seeded with
    | none => decide
    | some c => simpa using c.code_range.1
  · intro h
    simp [h] at hle
  · intro h
    simp [h] at hle

/-- Settles O5: a word from 0x600 on is the violation RESERVED_OPCODE. -/
theorem reservedOpcodeFaults : Obligations.ReservedOpcodeFaults := fun s cmd _ _ _ hp hlive hreserved =>
  step_of_violated hp hlive ((wordViolation_eq_some_iff cmd s.seeded .reservedOpcode).2 hreserved)

/-- Settles O44: of the things a presented word can do, taking a fault is the one that leads from `fault = 0` to
`fault = 1`. -/
theorem takingAFaultChangesOnlyTheFaultFlags : Obligations.TakingAFaultChangesOnlyTheFaultFlags := by
  intro s t cmd a b rest hp hlive h hfault
  obtain ⟨hf, -⟩ | ⟨-, c, rfl⟩ | ⟨-, i, -, -, rfl⟩ := step_command_cases hp h
  · cases hf.symm.trans hlive
  · exact ⟨rfl, c.one_le_code, c.code_range.2⟩
  · rw [effectOf_fault] at hfault
    cases hfault.symm.trans hlive

/-- Settles O46: of the things a presented word can do, a faulted block leaves one. -/
theorem faultedBlockIgnoresCommands : Obligations.FaultedBlockIgnoresCommands := by
  intro s cmd a b rest hfault hp
  obtain ⟨t, h⟩ := step_completes s
  obtain ⟨-, rfl⟩ | ⟨hlive, -⟩ | ⟨hlive, -⟩ := step_command_cases hp h
  · exact h
  · cases hfault.symm.trans hlive
  · cases hfault.symm.trans hlive

/-- Settles O47: an idle step changes nothing, and a command leaves `fault` of a faulted block as it is. -/
theorem onlyResetLeavesTheFault : Obligations.OnlyResetLeavesTheFault := by
  intro s t h hfault hclear
  match hp : s.pending with
  | [] =>
    rw [step_of_idle hp] at h
    cases h
    cases hfault.symm.trans hclear
  | .reset :: rest => exact ⟨rest, rfl⟩
  | .command cmd a b :: rest =>
    rw [faultedBlockIgnoresCommands s cmd a b rest hfault hp] at h
    cases h
    cases hfault.symm.trans hclear

/-- R169: the preconditions of the four checked commands are all there is to meet. -/
theorem violationOf_eq_none {i : Instr} {seeded : Bool}
    (hcount : ∀ n, i = .shl n ∨ i = .shr n → 1 ≤ n ∧ n ≤ 71) (hseed : ∀ n, i = .seed n → seeded = false)
    (hnext : ∀ n, i = .next n → seeded = true) : violationOf i seeded = none := by
  cases i with
  | shl cnt => exact (checkCount_eq_none_iff cnt).2 (hcount cnt (.inl rfl))
  | shr cnt => exact (checkCount_eq_none_iff cnt).2 (hcount cnt (.inr rfl))
  | seed n => simp [violationOf, hseed n rfl]
  | next n => simp [violationOf, hnext n rfl]
  | _ => rfl

/-- R62: opcode 9 is SEED. -/
theorem opcode_eq_nine_iff (i : Instr) : opcode i = 9 ↔ ∃ n, i = .seed n := by
  cases i <;> simp [opcode]

/-- Settles O55: the effect of the passed command; SEED sets `seeded` and returns nothing, others keep it and return a
value. -/
theorem commandsSucceedWhenTheirCheckPasses : Obligations.CommandsSucceedWhenTheirCheckPasses := by
  intro i s hlive hcount hseed hnext
  have hpass := violationOf_eq_none hcount hseed hnext
  refine ⟨effectOf i s, exec_of_passed hlive hpass, by simpa using hlive, by simp, ?_⟩
  by_cases hop : opcode i = 9
  · obtain ⟨n, rfl⟩ := (opcode_eq_nine_iff i).1 hop
    simp [effectOf, opcode]
  · have hne : ∀ n, i ≠ .seed n := not_exists.1 (hop ∘ (opcode_eq_nine_iff i).2)
    obtain ⟨v, hv⟩ := effectOf_result hne s
    simp [effectOf_seeded hne, hv, hop]

end Sys2Proof.Machine
end

section
/-! PROOF. Reset, completion, and runs that start with a reset: the simulation between two blocks that agree on all a host
can observe, and on the state words once seeded, so that nothing of what stood before the reset shows. -/

namespace Sys2Proof.Machine

open Sys2Proof

/-- Settles O2: what the reset step writes and what it leaves. -/
theorem resetRequestClearsEveryFlag : Obligations.ResetRequestClearsEveryFlag := fun _ _ hp =>
  ⟨_, step_of_reset hp, rfl, rfl, rfl, rfl, rfl, rfl, rfl⟩

/-- Settles O52: a command has its three cases and a step its four, each with a next state. -/
theorem everyCommandCompletes : Obligations.EveryCommandCompletes := ⟨exec_completes, step_completes⟩

/-- Settles O57: the run is judged after the command before the resets, and there it stands at `u`. -/
theorem resetsAfterAFaultDoNotMakeARunRight : Obligations.ResetsAfterAFaultDoNotMakeARunRight := by
  rintro s u t pre resets cmd a b hp hresets hrun hfault ⟨-, v, hjudged, hlive⟩
  rw [hp, judgedAt_append rfl hresets, hrun] at hjudged
  cases hjudged
  cases hfault.symm.trans hlive

/-- Two blocks that no later request can tell apart (R36, R202): the state words count only while `seeded` is set, and
neither the operand ports, which each command drives anew, nor the number of resets counts at all. -/
structure Alike (s t : State) : Prop where
  seeded : s.seeded = t.seeded
  fault : s.fault = t.fault
  fcause : s.fcause = t.fcause
  result : s.result = t.result
  pending : s.pending = t.pending
  words : s.seeded = true → s.state0 = t.state0 ∧ s.state1 = t.state1

section
variable {s t : State}

/-- R33, R190: a reset makes any two blocks alike, for it leaves them unseeded. -/
theorem Alike.applyReset (hp : s.pending = t.pending) : Alike s.applyReset t.applyReset :=
  ⟨rfl, rfl, rfl, rfl, hp, nofun⟩

theorem Alike.present (h : Alike s t) (a b : Word) (rest : List Request) :
    Alike (s.present a b rest) (t.present a b rest) :=
  ⟨h.seeded, h.fault, h.fcause, h.result, rfl, h.words⟩

theorem Alike.returnWord (h : Alike s t) (v : Word) : Alike (s.returnWord v) (t.returnWord v) :=
  ⟨h.seeded, h.fault, h.fcause, rfl, h.pending, h.words⟩

theorem Alike.noValue (h : Alike s t) : Alike s.noValue t.noValue :=
  ⟨h.seeded, h.fault, h.fcause, rfl, h.pending, h.words⟩

theorem Alike.raiseFault (h : Alike s t) (c : Cause) : Alike (s.raiseFault c) (t.raiseFault c) :=
  ⟨h.seeded, rfl, rfl, rfl, h.pending, h.words⟩

theorem Alike.writeWords (h : Alike s t) (w0 w1 : Word) : Alike (s.writeWords w0 w1) (t.writeWords w0 w1) :=
  ⟨h.seeded, h.fault, h.fcause, h.result, h.pending, fun _ => ⟨rfl, rfl⟩⟩

theorem Alike.loadSeed (h : Alike s t) (w0 w1 : Word) : Alike (s.loadSeed w0 w1) (t.loadSeed w0 w1) :=
  ⟨rfl, h.fault, h.fcause, rfl, h.pending, fun _ => ⟨rfl, rfl⟩⟩

/-- With the same operands on their ports, alike blocks stay alike through the effect of a command whose check passes:
NEXT, the one that reads the state words, passes only where they are equal. -/
theorem Alike.effectOf (h : Alike s t) (ha : s.a = t.a) (hb : s.b = t.b) {i : Instr}
    (hpass : violationOf i s.seeded = none) : Alike (effectOf i s) (effectOf i t) := by
  cases i with
  | seed n =>
    change Alike (s.loadSeed s.a s.b) (t.loadSeed t.a t.b)
    rw [ha, hb]
    exact h.loadSeed t.a t.b
  | next n =>
    have hseeded : s.seeded = true := by simpa [violationOf] using hpass
    obtain ⟨h0, h1⟩ := h.words hseeded
    simp only [Machine.effectOf, h0, h1]
    exact (h.writeWords _ _).returnWord _
  | _ =>
    simp only [Machine.effectOf, ha, hb]
    exact h.returnWord _

/-- Both blocks are faulted, or neither is and both effects take place. -/
theorem Alike.whenLive (h : Alike s t) {f g : State → State} (heffect : Alike (f s) (g t)) :
    ∃ s' t', whenLive s f = .next s' ∧ whenLive t g = .next t' ∧ Alike s' t' := by
  cases hf : s.fault with
  | true => exact ⟨_, _, whenLive_of_faulted hf f, whenLive_of_faulted (h.fault ▸ hf) g, h.noValue⟩
  | false => exact ⟨_, _, whenLive_of_live hf f, whenLive_of_live (h.fault ▸ hf) g, heffect⟩

theorem Alike.exec (h : Alike s t) (ha : s.a = t.a) (hb : s.b = t.b) (i : Instr) :
    ∃ s' t', exec i s = .next s' ∧ exec i t = .next t' ∧ Alike s' t' := by
  rw [exec_eq_whenLive, exec_eq_whenLive, ← h.seeded]
  apply h.whenLive
  cases hv : violationOf i s.seeded with
  | some c => exact h.raiseFault c
  | none => exact h.effectOf ha hb hv

theorem Alike.perform (h : Alike s t) (ha : s.a = t.a) (hb : s.b = t.b) (cmd : CmdWord) :
    ∃ s' t', perform cmd s = .next s' ∧ perform cmd t = .next t' ∧ Alike s' t' := by
  cases hd : decode cmd with
  | ok i =>
    rw [perform_of_decode_ok hd, perform_of_decode_ok hd]
    exact h.exec ha hb i
  | error e =>
    rw [perform_of_decode_error hd, perform_of_decode_error hd]
    exact h.whenLive (h.raiseFault .reservedOpcode)

/-- The simulation: alike blocks take the same request and are alike after it. -/
theorem Alike.step (h : Alike s t) : ∃ s' t', step s = .next s' ∧ step t = .next t' ∧ Alike s' t' := by
  match hp : s.pending with
  | [] => exact ⟨s, t, step_of_idle hp, step_of_idle (h.pending ▸ hp), h⟩
  | .reset :: rest => exact ⟨_, _, step_of_reset hp, step_of_reset (h.pending ▸ hp), .applyReset rfl⟩
  | .command cmd a b :: rest =>
    rw [step_of_command hp, step_of_command (h.pending ▸ hp)]
    exact (h.present a b rest).perform rfl rfl cmd

/-- A step takes one request. -/
theorem step_pending (h : step s = .next t) : t.pending = s.pending.tail := by
  match hp : s.pending with
  | [] =>
    rw [step_of_idle hp] at h
    cases h
    exact hp
  | .reset :: rest =>
    rw [step_of_reset hp] at h
    cases h
    rfl
  | .command cmd a b :: rest =>
    obtain ⟨-, rfl⟩ | ⟨-, c, rfl⟩ | ⟨-, i, -, -, rfl⟩ := step_command_cases hp h
    · rfl
    · rfl
    · simp

/-- The outcome of a run with `vs` returned before it. -/
def RunOutcome.after (vs : List Word) (o : RunOutcome) : RunOutcome := { o with results := vs ++ o.results }

/-- R202: a run with no request shows its flags and no result. -/
theorem runOutcome_of_idle (hp : s.pending = []) :
    runOutcome s = some ⟨[], s.seeded, s.fault, s.fcause⟩ := by
  rw [runOutcome, hp]
  rfl

/-- R202: a run shows what its first request returns, if that is a command, and then what the rest of it shows. -/
theorem runOutcome_of_step {r : Request} {rest : List Request} (hp : s.pending = r :: rest)
    (h : step s = .next t) :
    runOutcome s = (runOutcome t).map (.after (if isCommand r then t.result.toList else [])) := by
  have hrest : t.pending = rest := by rw [step_pending h, hp, List.tail_cons]
  rw [runOutcome, runOutcome, hp, hrest, List.length_cons, run_succ h, runResults_succ h, hp, List.head?_cons,
    Option.any_some]
  cases Host.Core.run Sys2Proof.core rest.length t <;> rfl

/-- R203: alike blocks show one outcome, by induction on the requests. -/
theorem Alike.runOutcome {rs : List Request} (h : Alike s t) (hp : s.pending = rs) :
    ∃ o, runOutcome s = some o ∧ runOutcome t = some o := by
  induction rs generalizing s t with
  | nil =>
    refine ⟨_, runOutcome_of_idle hp, ?_⟩
    rw [runOutcome_of_idle (h.pending ▸ hp), h.seeded, h.fault, h.fcause]
  | cons r rest ih =>
    obtain ⟨s', t', hs, ht, h'⟩ := h.step
    obtain ⟨o, hos, hot⟩ := ih h' (by rw [step_pending hs, hp, List.tail_cons])
    rw [runOutcome_of_step hp hs, runOutcome_of_step (h.pending ▸ hp) ht, hos, hot, h'.result]
    exact ⟨_, rfl, rfl⟩

end

/-- Settles O56: the first step makes the blocks alike, and a reset returns nothing. -/
theorem runOutcomeDependsOnlyOnTheRequests : Obligations.RunOutcomeDependsOnlyOnTheRequests := by
  intro s t rest hs ht
  have halike : Alike { s with pending := rest }.applyReset { t with pending := rest }.applyReset := .applyReset rfl
  obtain ⟨o, hos, hot⟩ := halike.runOutcome rfl
  rw [runOutcome_of_step hs (step_of_reset hs), runOutcome_of_step ht (step_of_reset ht), hos, hot]
  exact ⟨_, rfl, rfl⟩

end Sys2Proof.Machine
end
